-- ==== Sys2Proof/Word.lean ====
section
/-! DEFINITION. The two word sizes of the hardware (spec/00_scope.md R4): bytes, and 16-bit words for
addresses, register pairs and the program counter. Their arithmetic is that of `BitVec`, which is
modulo 65536 on a word, as R8 asks. -/

namespace Sys2Proof

/-- R4: a half register, a memory cell and an opcode byte are 8 bits wide. -/
abbrev Byte := BitVec 8

/-- R4: an address, a register pair, SP, IDX and the program counter are 16 bits wide. -/
abbrev Word := BitVec 16

end Sys2Proof
end

