-- ==== Sys2Proof/Config.lean ====
section
/-! DEFINITION. The parameters of spec/00_scope.md R4, all of which the spec fixes. The three it
leaves open (R5) are no constants but arguments: `MEM_RESET` and `FLAG_POS` are those of
`Machine.State.resetWith` (Machine/HostInterface.lean, log entries 1, 9, 27), and `RUN_BUDGET` is
that of `Machine.hostRun` (log entry 20). -/

namespace Sys2Proof.Config

/-- R4 `MEM_SIZE`: "exactly 65536 bytes for the lifetime of the engine". -/
def memSize : Nat := 65536

/-- R4 `ADDR_W`: memory is "indexed by a 16-bit unsigned address". -/
def addrWidth : Nat := 16

/-- R4, R45: the longest instruction has three bytes. -/
def maxInstrBytes : Nat := 3

/-- R101, R105: the most iterations one block copy makes, which is one for each address. -/
def maxCopyIterations : Nat := 65536

end Sys2Proof.Config
end

