-- ==== Sys2Proof/Syntax.lean ====
section
/-! DEFINITION. The instruction set: the 69 rows of spec/opcode_table.json (30_encoding.md R51), one
constructor each, the operand names they are built from, and the encoded forms of R46, whose
register fields are still raw bits. -/

namespace Sys2Proof

/-- R14: the seven registers a 3-bit register index can name. The eighth index names no register, so
it has no constructor here (93_implementation_defined.md U1: "seven values, not eight"). -/
inductive Reg8 where
  | B | C | D | E | H | L | A
  deriving DecidableEq, Repr

/-- R48: the four destinations of the 16-bit immediate load. -/
inductive Dest16 where
  | BC | DE | HL | SP
  deriving DecidableEq, Repr

/-- R46, R47: an encoded instruction split into its fields, by format. A field may still hold a value
that stands for no instruction; `Form.wf` (WellFormed.lean) says which may stand. -/
inductive Form where
  /-- `00 dd 0001`, low byte, high byte: 16-bit immediate load. -/
  | dd (sel : BitVec 2) (nn : Word)
  /-- `00 rrr 110`, byte: 8-bit immediate load. -/
  | ri (rrr : BitVec 3) (n : Byte)
  /-- `01 ddd sss`: register-to-register transfer. -/
  | rr (ddd sss : BitVec 3)
  /-- `01 ddd 110`: indirect load via the pointer pair. -/
  | rm (ddd : BitVec 3)
  /-- `ED` and the second opcode byte (R55). -/
  | ed (op2 : Byte)
  /-- `76`. -/
  | hlt
  deriving DecidableEq, Repr

/-- R51: every instruction, in the order of spec/opcode_table.json. `ldB_C` is `LD B,C`; `ldB_n` is
`LD B,n`; `ldBC_nn` is `LD BC,nn`; `ldB_atHL` is `LD B,(HL)`. -/
inductive Instr where
  /-- `LD BC,nn` (R71). -/
  | ldBC_nn (nn : Word)
  /-- `LD DE,nn` (R72). -/
  | ldDE_nn (nn : Word)
  /-- `LD HL,nn` (R73). -/
  | ldHL_nn (nn : Word)
  /-- `LD SP,nn` (R74). -/
  | ldSP_nn (nn : Word)
  /-- `LD B,n` (R76). -/
  | ldB_n (n : Byte)
  /-- `LD C,n` (R77). -/
  | ldC_n (n : Byte)
  /-- `LD D,n` (R78). -/
  | ldD_n (n : Byte)
  /-- `LD E,n` (R79). -/
  | ldE_n (n : Byte)
  /-- `LD H,n` (R80). -/
  | ldH_n (n : Byte)
  /-- `LD L,n` (R81). -/
  | ldL_n (n : Byte)
  /-- `LD A,n` (R82). -/
  | ldA_n (n : Byte)
  /-- `LD B,B` (R84). -/
  | ldB_B
  /-- `LD B,C` (R84). -/
  | ldB_C
  /-- `LD B,D` (R84). -/
  | ldB_D
  /-- `LD B,E` (R84). -/
  | ldB_E
  /-- `LD B,H` (R84). -/
  | ldB_H
  /-- `LD B,L` (R84). -/
  | ldB_L
  /-- `LD B,A` (R84). -/
  | ldB_A
  /-- `LD C,B` (R85). -/
  | ldC_B
  /-- `LD C,C` (R85). -/
  | ldC_C
  /-- `LD C,D` (R85). -/
  | ldC_D
  /-- `LD C,E` (R85). -/
  | ldC_E
  /-- `LD C,H` (R85). -/
  | ldC_H
  /-- `LD C,L` (R85). -/
  | ldC_L
  /-- `LD C,A` (R85). -/
  | ldC_A
  /-- `LD D,B` (R86). -/
  | ldD_B
  /-- `LD D,C` (R86). -/
  | ldD_C
  /-- `LD D,D` (R86). -/
  | ldD_D
  /-- `LD D,E` (R86). -/
  | ldD_E
  /-- `LD D,H` (R86). -/
  | ldD_H
  /-- `LD D,L` (R86). -/
  | ldD_L
  /-- `LD D,A` (R86). -/
  | ldD_A
  /-- `LD E,B` (R87). -/
  | ldE_B
  /-- `LD E,C` (R87). -/
  | ldE_C
  /-- `LD E,D` (R87). -/
  | ldE_D
  /-- `LD E,E` (R87). -/
  | ldE_E
  /-- `LD E,H` (R87). -/
  | ldE_H
  /-- `LD E,L` (R87). -/
  | ldE_L
  /-- `LD E,A` (R87). -/
  | ldE_A
  /-- `LD H,B` (R88). -/
  | ldH_B
  /-- `LD H,C` (R88). -/
  | ldH_C
  /-- `LD H,D` (R88). -/
  | ldH_D
  /-- `LD H,E` (R88). -/
  | ldH_E
  /-- `LD H,H` (R88). -/
  | ldH_H
  /-- `LD H,L` (R88). -/
  | ldH_L
  /-- `LD H,A` (R88). -/
  | ldH_A
  /-- `LD L,B` (R89). -/
  | ldL_B
  /-- `LD L,C` (R89). -/
  | ldL_C
  /-- `LD L,D` (R89). -/
  | ldL_D
  /-- `LD L,E` (R89). -/
  | ldL_E
  /-- `LD L,H` (R89). -/
  | ldL_H
  /-- `LD L,L` (R89). -/
  | ldL_L
  /-- `LD L,A` (R89). -/
  | ldL_A
  /-- `LD A,B` (R90). -/
  | ldA_B
  /-- `LD A,C` (R90). -/
  | ldA_C
  /-- `LD A,D` (R90). -/
  | ldA_D
  /-- `LD A,E` (R90). -/
  | ldA_E
  /-- `LD A,H` (R90). -/
  | ldA_H
  /-- `LD A,L` (R90). -/
  | ldA_L
  /-- `LD A,A` (R90). -/
  | ldA_A
  /-- `LD B,(HL)` (R92). -/
  | ldB_atHL
  /-- `LD C,(HL)` (R93). -/
  | ldC_atHL
  /-- `LD D,(HL)` (R94). -/
  | ldD_atHL
  /-- `LD E,(HL)` (R95). -/
  | ldE_atHL
  /-- `LD H,(HL)` (R96). -/
  | ldH_atHL
  /-- `LD L,(HL)` (R97). -/
  | ldL_atHL
  /-- `LD A,(HL)` (R98). -/
  | ldA_atHL
  /-- `LDIR` (R99). -/
  | ldir
  /-- `HALT` (R107). -/
  | halt
  deriving DecidableEq, Repr

end Sys2Proof
end

