-- ==== Sys2Proof/WellFormed.lean ====
section
/-! DEFINITION. Which encoded forms are instructions: the checks of 30_encoding.md R46, R53 and R54.
Immediates need none, every value is legal (R49, R50). -/

namespace Sys2Proof

/-- R14, R47: the index that names no register ("memory via pointer"). -/
def reservedIndex : BitVec 3 := 0b110

/-- R55: the one second opcode byte recognized after `ED`. -/
def blockCopyByte : Byte := 0xB0

/-- R46: the form is an instruction, that is no register field holds the reserved index (R54) and the
byte after `ED` is `B0` (R53). -/
def Form.wf : Form → Bool
  | .dd _ _ => true
  | .ri rrr _ => rrr != reservedIndex
  | .rr ddd sss => ddd != reservedIndex && sss != reservedIndex
  | .rm ddd => ddd != reservedIndex
  | .ed op2 => op2 == blockCopyByte
  | .hlt => true

end Sys2Proof
end

