-- ==== Sys2Proof/Decode.lean ====
section
/-! DEFINITION. The opcode decoder and its inverse (30_encoding.md R45 to R55). Bytes become a `Form`
by their fixed bits, a `Form` becomes an instruction by the register tables of 10_state.md R14 and
R48; what fits no row is rejected by name. The encoder is written from the same tables. -/

namespace Sys2Proof

/-! ### Bytes and words -/

/-- R11: the more significant byte of a word. -/
def hiByte (v : Word) : Byte := v.extractLsb' 8 8

/-- R11: the less significant byte of a word. -/
def loByte (v : Word) : Byte := v.extractLsb' 0 8

/-- R7: `{h, l} = (h << 8) | l`. -/
def joinBytes (h l : Byte) : Word := h ++ l

/-! ### Register fields -/

/-- R14: the 3-bit index of a register. PRESUMED by the spec (K2, log entry 10). -/
def Reg8.index : Reg8 → BitVec 3
  | .B => 0b000
  | .C => 0b001
  | .D => 0b010
  | .E => 0b011
  | .H => 0b100
  | .L => 0b101
  | .A => 0b111

/-- R14: the register an index names; index 6 is rejected, as R14 asks, by an explicit case. -/
def Reg8.ofIndex (i : BitVec 3) : Option Reg8 :=
  match i.toNat with
  | 0 => some .B
  | 1 => some .C
  | 2 => some .D
  | 3 => some .E
  | 4 => some .H
  | 5 => some .L
  | 6 => none
  | 7 => some .A
  | _ => none

/-- R48: the 2-bit pair selector of a destination. -/
def Dest16.selector : Dest16 → BitVec 2
  | .BC => 0b00
  | .DE => 0b01
  | .HL => 0b10
  | .SP => 0b11

/-- R48: the destination a selector names; all four values are in use. -/
def Dest16.ofSelector (dd : BitVec 2) : Dest16 :=
  match dd.toNat with
  | 0 => .BC
  | 1 => .DE
  | 2 => .HL
  | _ => .SP

/-! ### The instruction of each class and operand -/

/-- R70: the 16-bit immediate load of a destination. -/
def Instr.load16 (d : Dest16) (nn : Word) : Instr :=
  match d with
  | .BC => .ldBC_nn nn
  | .DE => .ldDE_nn nn
  | .HL => .ldHL_nn nn
  | .SP => .ldSP_nn nn

/-- R75: the 8-bit immediate load of a register. -/
def Instr.load8 (r : Reg8) (n : Byte) : Instr :=
  match r with
  | .B => .ldB_n n
  | .C => .ldC_n n
  | .D => .ldD_n n
  | .E => .ldE_n n
  | .H => .ldH_n n
  | .L => .ldL_n n
  | .A => .ldA_n n

/-- R83: the transfer to register `r` from register `r'`. -/
def Instr.transfer (r r' : Reg8) : Instr :=
  match r, r' with
  | .B, .B => .ldB_B
  | .B, .C => .ldB_C
  | .B, .D => .ldB_D
  | .B, .E => .ldB_E
  | .B, .H => .ldB_H
  | .B, .L => .ldB_L
  | .B, .A => .ldB_A
  | .C, .B => .ldC_B
  | .C, .C => .ldC_C
  | .C, .D => .ldC_D
  | .C, .E => .ldC_E
  | .C, .H => .ldC_H
  | .C, .L => .ldC_L
  | .C, .A => .ldC_A
  | .D, .B => .ldD_B
  | .D, .C => .ldD_C
  | .D, .D => .ldD_D
  | .D, .E => .ldD_E
  | .D, .H => .ldD_H
  | .D, .L => .ldD_L
  | .D, .A => .ldD_A
  | .E, .B => .ldE_B
  | .E, .C => .ldE_C
  | .E, .D => .ldE_D
  | .E, .E => .ldE_E
  | .E, .H => .ldE_H
  | .E, .L => .ldE_L
  | .E, .A => .ldE_A
  | .H, .B => .ldH_B
  | .H, .C => .ldH_C
  | .H, .D => .ldH_D
  | .H, .E => .ldH_E
  | .H, .H => .ldH_H
  | .H, .L => .ldH_L
  | .H, .A => .ldH_A
  | .L, .B => .ldL_B
  | .L, .C => .ldL_C
  | .L, .D => .ldL_D
  | .L, .E => .ldL_E
  | .L, .H => .ldL_H
  | .L, .L => .ldL_L
  | .L, .A => .ldL_A
  | .A, .B => .ldA_B
  | .A, .C => .ldA_C
  | .A, .D => .ldA_D
  | .A, .E => .ldA_E
  | .A, .H => .ldA_H
  | .A, .L => .ldA_L
  | .A, .A => .ldA_A

/-- R91: the load of a register from memory at the pointer pair. -/
def Instr.loadAtHL (r : Reg8) : Instr :=
  match r with
  | .B => .ldB_atHL
  | .C => .ldC_atHL
  | .D => .ldD_atHL
  | .E => .ldE_atHL
  | .H => .ldH_atHL
  | .L => .ldL_atHL
  | .A => .ldA_atHL

/-! ### Decoding -/

/-- R52, first half: the format of the instruction whose first byte is `op` and whose next two bytes
are `b1` and `b2`, by the fixed bits of `op` alone. The order of the tests is R52's. -/
def Form.ofBytes (op b1 b2 : Byte) : Option Form :=
  if op = 0x76 then some .hlt
  else if op = 0xED then some (.ed b1)
  else if op.extractLsb' 6 2 = 0b00 ∧ op.extractLsb' 0 4 = 0b0001 then
    some (.dd (op.extractLsb' 4 2) (joinBytes b2 b1))
  else if op.extractLsb' 6 2 = 0b00 ∧ op.extractLsb' 0 3 = 0b110 then
    some (.ri (op.extractLsb' 3 3) b1)
  else if op.extractLsb' 6 2 = 0b01 ∧ op.extractLsb' 0 3 ≠ 0b110 then
    some (.rr (op.extractLsb' 3 3) (op.extractLsb' 0 3))
  else if op.extractLsb' 6 2 = 0b01 ∧ op.extractLsb' 0 3 = 0b110 then
    some (.rm (op.extractLsb' 3 3))
  else none

/-- R52, second half: the instruction of a form, none where a register field holds the reserved index
or the byte after `ED` is not `B0`. -/
def Instr.ofForm : Form → Option Instr
  | .dd sel nn => some (.load16 (.ofSelector sel) nn)
  | .ri rrr n => (Reg8.ofIndex rrr).map fun r => .load8 r n
  | .rr ddd sss =>
    match Reg8.ofIndex ddd, Reg8.ofIndex sss with
    | some r, some r' => some (.transfer r r')
    | _, _ => none
  | .rm ddd => (Reg8.ofIndex ddd).map .loadAtHL
  | .ed op2 => if op2 = blockCopyByte then some .ldir else none
  | .hlt => some .halt

/-- R53: which byte of the instruction stream matched no row. -/
inductive UnknownOpcode where
  /-- The first byte is in no row (the first line of R110's table). -/
  | firstByte (op : Byte)
  /-- The first byte is `ED` and this is the byte after it (the second line of R110's table). -/
  | secondByte (op2 : Byte)
  deriving DecidableEq, Repr

/-- R53, R110: the byte blamed when a form is no instruction: the second one behind `ED`, else the
first. -/
def Form.blame (op : Byte) : Form → UnknownOpcode
  | .ed op2 => .secondByte op2
  | _ => .firstByte op

/-- R52: the decoder, total on any three bytes. -/
def decodeBytes (op b1 b2 : Byte) : Except UnknownOpcode Instr :=
  match Form.ofBytes op b1 b2 with
  | none => .error (.firstByte op)
  | some f =>
    match Instr.ofForm f with
    | some i => .ok i
    | none => .error (f.blame op)

/-! ### Encoding -/

/-- R46: the bytes of a form, the first at the lowest address. -/
def Form.bytes : Form → List Byte
  | .dd sel nn => [0b00#2 ++ sel ++ 0b0001#4, loByte nn, hiByte nn]
  | .ri rrr n => [0b00#2 ++ rrr ++ 0b110#3, n]
  | .rr ddd sss => [0b01#2 ++ ddd ++ sss]
  | .rm ddd => [0b01#2 ++ ddd ++ 0b110#3]
  | .ed op2 => [0xED, op2]
  | .hlt => [0x76]

/-- R45: the length of a form in bytes. -/
def Form.length : Form → Nat
  | .dd _ _ => 3
  | .ri _ _ => 2
  | .rr _ _ => 1
  | .rm _ => 1
  | .ed _ => 2
  | .hlt => 1

/-- R51: the form of each instruction. -/
def Instr.form : Instr → Form
  | .ldBC_nn nn => .dd (Dest16.selector .BC) nn
  | .ldDE_nn nn => .dd (Dest16.selector .DE) nn
  | .ldHL_nn nn => .dd (Dest16.selector .HL) nn
  | .ldSP_nn nn => .dd (Dest16.selector .SP) nn
  | .ldB_n n => .ri (Reg8.index .B) n
  | .ldC_n n => .ri (Reg8.index .C) n
  | .ldD_n n => .ri (Reg8.index .D) n
  | .ldE_n n => .ri (Reg8.index .E) n
  | .ldH_n n => .ri (Reg8.index .H) n
  | .ldL_n n => .ri (Reg8.index .L) n
  | .ldA_n n => .ri (Reg8.index .A) n
  | .ldB_B => .rr (Reg8.index .B) (Reg8.index .B)
  | .ldB_C => .rr (Reg8.index .B) (Reg8.index .C)
  | .ldB_D => .rr (Reg8.index .B) (Reg8.index .D)
  | .ldB_E => .rr (Reg8.index .B) (Reg8.index .E)
  | .ldB_H => .rr (Reg8.index .B) (Reg8.index .H)
  | .ldB_L => .rr (Reg8.index .B) (Reg8.index .L)
  | .ldB_A => .rr (Reg8.index .B) (Reg8.index .A)
  | .ldC_B => .rr (Reg8.index .C) (Reg8.index .B)
  | .ldC_C => .rr (Reg8.index .C) (Reg8.index .C)
  | .ldC_D => .rr (Reg8.index .C) (Reg8.index .D)
  | .ldC_E => .rr (Reg8.index .C) (Reg8.index .E)
  | .ldC_H => .rr (Reg8.index .C) (Reg8.index .H)
  | .ldC_L => .rr (Reg8.index .C) (Reg8.index .L)
  | .ldC_A => .rr (Reg8.index .C) (Reg8.index .A)
  | .ldD_B => .rr (Reg8.index .D) (Reg8.index .B)
  | .ldD_C => .rr (Reg8.index .D) (Reg8.index .C)
  | .ldD_D => .rr (Reg8.index .D) (Reg8.index .D)
  | .ldD_E => .rr (Reg8.index .D) (Reg8.index .E)
  | .ldD_H => .rr (Reg8.index .D) (Reg8.index .H)
  | .ldD_L => .rr (Reg8.index .D) (Reg8.index .L)
  | .ldD_A => .rr (Reg8.index .D) (Reg8.index .A)
  | .ldE_B => .rr (Reg8.index .E) (Reg8.index .B)
  | .ldE_C => .rr (Reg8.index .E) (Reg8.index .C)
  | .ldE_D => .rr (Reg8.index .E) (Reg8.index .D)
  | .ldE_E => .rr (Reg8.index .E) (Reg8.index .E)
  | .ldE_H => .rr (Reg8.index .E) (Reg8.index .H)
  | .ldE_L => .rr (Reg8.index .E) (Reg8.index .L)
  | .ldE_A => .rr (Reg8.index .E) (Reg8.index .A)
  | .ldH_B => .rr (Reg8.index .H) (Reg8.index .B)
  | .ldH_C => .rr (Reg8.index .H) (Reg8.index .C)
  | .ldH_D => .rr (Reg8.index .H) (Reg8.index .D)
  | .ldH_E => .rr (Reg8.index .H) (Reg8.index .E)
  | .ldH_H => .rr (Reg8.index .H) (Reg8.index .H)
  | .ldH_L => .rr (Reg8.index .H) (Reg8.index .L)
  | .ldH_A => .rr (Reg8.index .H) (Reg8.index .A)
  | .ldL_B => .rr (Reg8.index .L) (Reg8.index .B)
  | .ldL_C => .rr (Reg8.index .L) (Reg8.index .C)
  | .ldL_D => .rr (Reg8.index .L) (Reg8.index .D)
  | .ldL_E => .rr (Reg8.index .L) (Reg8.index .E)
  | .ldL_H => .rr (Reg8.index .L) (Reg8.index .H)
  | .ldL_L => .rr (Reg8.index .L) (Reg8.index .L)
  | .ldL_A => .rr (Reg8.index .L) (Reg8.index .A)
  | .ldA_B => .rr (Reg8.index .A) (Reg8.index .B)
  | .ldA_C => .rr (Reg8.index .A) (Reg8.index .C)
  | .ldA_D => .rr (Reg8.index .A) (Reg8.index .D)
  | .ldA_E => .rr (Reg8.index .A) (Reg8.index .E)
  | .ldA_H => .rr (Reg8.index .A) (Reg8.index .H)
  | .ldA_L => .rr (Reg8.index .A) (Reg8.index .L)
  | .ldA_A => .rr (Reg8.index .A) (Reg8.index .A)
  | .ldB_atHL => .rm (Reg8.index .B)
  | .ldC_atHL => .rm (Reg8.index .C)
  | .ldD_atHL => .rm (Reg8.index .D)
  | .ldE_atHL => .rm (Reg8.index .E)
  | .ldH_atHL => .rm (Reg8.index .H)
  | .ldL_atHL => .rm (Reg8.index .L)
  | .ldA_atHL => .rm (Reg8.index .A)
  | .ldir => .ed blockCopyByte
  | .halt => .hlt

/-- R45: the length of an instruction in bytes (one for the halt, which never adds it to `pc`). -/
def Instr.length (i : Instr) : Nat := i.form.length

/-- R46: an instruction is well formed when its form is. -/
def Instr.wf (i : Instr) : Bool := i.form.wf

/-- R46: the bytes of an instruction. -/
def encode (i : Instr) : List Byte := i.form.bytes

/-! ### Decoding a list of bytes -/

/-- Why a list of bytes does not begin with an instruction. -/
inductive Reject where
  /-- The list ends before the instruction does. Never in memory, where addresses wrap (R31). -/
  | truncated
  /-- R53: a byte matches no row. -/
  | unknown (u : UnknownOpcode)
  deriving DecidableEq, Repr

/-- R45, R52: the instruction a list of bytes begins with, and the bytes after it. -/
def decode : List Byte → Except Reject (Instr × List Byte)
  | [] => .error .truncated
  | op :: rest =>
    match decodeBytes op (rest.getD 0 0) (rest.getD 1 0) with
    | .ok i =>
      if i.length ≤ rest.length + 1 then .ok (i, (op :: rest).drop i.length)
      else .error .truncated
    | .error (.firstByte b) => .error (.unknown (.firstByte b))
    | .error (.secondByte b) =>
      if rest = [] then .error .truncated else .error (.unknown (.secondByte b))

/-! ### The opcode table's numbering -/

/-- The bytes of a table word, the first at the lowest address, filled up with zeros to the longest
instruction. Bit 0 of the word is bit 0 of the first byte and a later byte's bits count on from
it, except in the one row that spec/opcode_table.json numbers as `(byte0 << 8) | byte1`, the block
copy's `EDB0` (log entry 19). -/
def tableBytes (nbits w : Nat) : List Byte :=
  if nbits = 16 ∧ w = 0xEDB0 then [0xED, 0xB0, 0x00]
  else
    [BitVec.ofNat 8 (w % 2 ^ nbits), BitVec.ofNat 8 (w % 2 ^ nbits / 256),
      BitVec.ofNat 8 (w % 2 ^ nbits / 65536)]

/-- The instruction the decoder reads from a table word of `nbits` bits, all bits above them zero. -/
def decodeTableWord (nbits w : Nat) : Option Instr :=
  match decode (tableBytes nbits w) with
  | .ok (i, _) => some i
  | .error _ => none

end Sys2Proof
end

