-- ==== Sys2Proof/Machine/FlagLayout.lean ====
section
/-! DEFINITION. `FLAG_POS`, the bit of the flag byte that holds each flag (00_scope.md R5, 10_state.md
R19): a parameter of the machine, open in the spec (D3). -/

namespace Sys2Proof.Machine

/-- R19: the six named flags of the flag byte. -/
inductive Flag where
  | S | Z | H | PV | N | C
  deriving DecidableEq, Repr

/-- R5 `FLAG_POS`: a bit number of F, 0 to 7, for each flag. -/
structure FlagLayout where
  s : Fin 8
  z : Fin 8
  h : Fin 8
  pv : Fin 8
  n : Fin 8
  c : Fin 8
  deriving DecidableEq, Repr

/-- R19: `FLAG_POS[X]`. -/
def FlagLayout.pos (l : FlagLayout) : Flag → Nat
  | .S => l.s
  | .Z => l.z
  | .H => l.h
  | .PV => l.pv
  | .N => l.n
  | .C => l.c

/-- D3: "The positions must be six distinct values in 0 to 7". -/
def FlagLayout.wf (l : FlagLayout) : Bool := decide [l.s, l.z, l.h, l.pv, l.n, l.c].Nodup

/-- R19: the layout the spec gives as the default. PRESUMED by the spec (K3, log entry 9). -/
def defaultFlagLayout : FlagLayout := { s := 7, z := 6, h := 4, pv := 2, n := 1, c := 0 }

end Sys2Proof.Machine
end

