-- ==== Sys2Proof/Machine/State.lean ====
section
/-! DEFINITION. The architectural state of the zz80 core (10_state.md R10 to R29): two register sets,
the program counter, the engine's status and fault record, and memory. R26: this is all the state
there is. Every field is plain data. -/

namespace Sys2Proof.Machine

/-- R10: the four register pairs of a set, each one 16-bit cell. -/
inductive Pair where
  | BC | DE | HL | AF
  deriving DecidableEq, Repr

/-- R11: the eight 8-bit halves of the pairs. -/
inductive Half where
  | B | C | D | E | H | L | A | F
  deriving DecidableEq, Repr

/-- R10, R15, R18: "one instance of the full collection of register pairs plus special-purpose
registers". The halves of a pair are views of its cell (R11), never fields of their own. -/
structure RegisterSet where
  bc : Word
  de : Word
  hl : Word
  /-- R13: accumulator in the high byte, flag byte in the low byte. -/
  af : Word
  /-- R15: the stack pointer, a plain 16-bit value. -/
  sp : Word
  /-- R15: the alternate-indexing register, a plain 16-bit value. -/
  idx : Word
  deriving DecidableEq, Repr

/-- R22: the engine's status. -/
inductive Status where
  /-- Between the creation of the engine and the first `run` (the spec's D11). -/
  | idle
  /-- About to read the opcode at the program counter. -/
  | fetching
  /-- An opcode is recognized and its handler runs; never seen between two steps (R6). -/
  | dispatching
  /-- The run ended on the halt opcode. -/
  | halted
  /-- The run ended on a decode failure. -/
  | faulted
  deriving DecidableEq, Repr

/-- R112, D24: the kinds of error, an enumeration without numbers. -/
inductive ErrorKind where
  /-- R110: raised by the decoder during a run. -/
  | unknownOpcode
  /-- R111: returned by the host's `load`, recorded nowhere. -/
  | overflow
  /-- R113: reserved by the design; nothing raises it. -/
  | unsupported
  deriving DecidableEq, Repr

/-- R23, R110: what the engine records when it enters Faulted. -/
structure FaultRecord where
  kind : ErrorKind
  /-- `fault_opcode`: the offending byte. -/
  opcode : Byte
  /-- `fault_addr`: the address of that byte. -/
  addr : Word
  deriving DecidableEq, Repr

/-- R24: memory as address and byte pairs in one canonical form (`Memory.wf`, Machine/Ops.lean):
addresses rise strictly, and no pair holds the byte that an unlisted address reads as. -/
abbrev Memory := List Host.Cell

/-- R26: the whole state of the machine, and the one parameter of R5 that instructions depend on. -/
structure State where
  /-- R10, R15: the main register set, which the instructions use. -/
  main : RegisterSet
  /-- R18: the alternate set, which no instruction reads or writes. -/
  alt : RegisterSet
  /-- R17: the one program counter. -/
  pc : Word
  /-- R22. -/
  status : Status
  /-- R23: present exactly in Faulted; elsewhere it "has no defined content" (D13, log entry 6). -/
  faultRecord : Option FaultRecord
  /-- R24. -/
  mem : Memory
  /-- R5 `FLAG_POS`: no state of the hardware but its open parameter, held here so that everything said
  of every state is said of every layout. It is set when the engine is created and nothing changes
  it (log entry 27). -/
  flagLayout : FlagLayout
  deriving DecidableEq, Repr

/-- Why a step does not take place. R61 defines the step in the status Fetching alone, so there is one
reason for each other status. No instruction raises one: a decode failure is a NEXT state whose
status is Faulted (R110). -/
inductive Fault where
  /-- `step` in Idle: the engine "executes nothing until the host calls `run`" (R126). Safe: the model
  stops where the hardware waits. -/
  | awaitingRun
  /-- `step` in Dispatching: inside a step there is no second one (R64, "no re-entrancy"). Safe: no
  step leaves this status. -/
  | handlerRunning
  /-- `step` in Halted: "no event of the engine's own leaves it" (R108). Safe: the model stops where
  the hardware does nothing until the host acts. -/
  | runEnded
  /-- `step` in Faulted: there "the step function is undefined" (R118, U5). Safe: a stuck state. -/
  | stuckInFaulted
  deriving DecidableEq, Repr

/-- Why an instruction has no meaning. -/
inductive Refusal where
  /-- An arm of `exec` whose instruction has no meaning yet. No arm does so in this model. Safe. -/
  | notModelled (mnemonic : String)
  deriving DecidableEq, Repr

/-- R28: every register of a fresh set is zero. -/
def RegisterSet.reset : RegisterSet :=
  { bc := 0, de := 0, hl := 0, af := 0, sp := 0, idx := 0 }

/-- R28, R29, R126: the engine just created: all registers of both sets and `pc` zero, status Idle, no
fault record. Memory lists nothing; its content after reset is open in the spec (`MEM_RESET`, log
entry 1), as is `FLAG_POS` (log entry 9), here at its default; `State.resetWith`
(Machine/HostInterface.lean) is this state for any content and any layout. -/
def State.reset : State :=
  { main := .reset, alt := .reset, pc := 0, status := .idle, faultRecord := none, mem := []
    flagLayout := defaultFlagLayout }

end Sys2Proof.Machine
end

