-- ==== Sys2Proof/Machine/Operands.lean ====
section
/-! DEFINITION. The operand forms: pairs and their aliased halves (10_state.md R10 to R14), the
destinations of the 16-bit load (30_encoding.md R48) and the pointer operand (44_ld_indirect.md R91). -/

namespace Sys2Proof.Machine

/-! ### Pairs and halves of one register set -/

/-- R10: the value of a pair's cell. -/
def RegisterSet.getPair (g : RegisterSet) : Pair → Word
  | .BC => g.bc
  | .DE => g.de
  | .HL => g.hl
  | .AF => g.af

/-- R10: replace all 16 bits of a pair's cell. -/
def RegisterSet.setPair (g : RegisterSet) (p : Pair) (v : Word) : RegisterSet :=
  match p with
  | .BC => { g with bc := v }
  | .DE => { g with de := v }
  | .HL => { g with hl := v }
  | .AF => { g with af := v }

/-- R11: the column "view of", the pair. -/
def Half.pair : Half → Pair
  | .B => .BC
  | .C => .BC
  | .D => .DE
  | .E => .DE
  | .H => .HL
  | .L => .HL
  | .A => .AF
  | .F => .AF

/-- R11: the column "view of", bits 15 to 8 or bits 7 to 0. -/
def Half.isHigh : Half → Bool
  | .B => true
  | .C => false
  | .D => true
  | .E => false
  | .H => true
  | .L => false
  | .A => true
  | .F => false

/-- R11: the column "read". -/
def RegisterSet.getHalf (g : RegisterSet) (x : Half) : Byte :=
  if x.isHigh then hiByte (g.getPair x.pair) else loByte (g.getPair x.pair)

/-- R11: the column "write of byte `b`"; the other half of the pair keeps its value. -/
def RegisterSet.setHalf (g : RegisterSet) (x : Half) (b : Byte) : RegisterSet :=
  g.setPair x.pair
    (if x.isHigh then joinBytes b (loByte (g.getPair x.pair))
      else joinBytes (hiByte (g.getPair x.pair)) b)

/-! ### Operands of the instructions, in the main set -/

/-- R14: the half a register index stands for; the flag byte has no index. -/
def halfOf : Reg8 → Half
  | .B => .B
  | .C => .C
  | .D => .D
  | .E => .E
  | .H => .H
  | .L => .L
  | .A => .A

/-- R9: `pair[p]`. -/
def State.getPair (s : State) (p : Pair) : Word := s.main.getPair p

/-- R9: `pair[p] <- v`. -/
def State.setPair (s : State) (p : Pair) (v : Word) : State :=
  { s with main := s.main.setPair p v }

/-- R9, R14: `r8[i]`. -/
def State.readR8 (s : State) (r : Reg8) : Byte := s.main.getHalf (halfOf r)

/-- R9, R14: `r8[i] <- b`. -/
def State.writeR8 (s : State) (r : Reg8) (b : Byte) : State :=
  { s with main := s.main.setHalf (halfOf r) b }

/-- R48, R70: write a destination of the 16-bit immediate load. -/
def State.writeDest16 (s : State) (d : Dest16) (v : Word) : State :=
  match d with
  | .BC => s.setPair .BC v
  | .DE => s.setPair .DE v
  | .HL => s.setPair .HL v
  | .SP => { s with main := { s.main with sp := v } }

/-- R91: the effective address of the indirect load, the full value of the pointer pair HL (PRESUMED
by the spec, K4, log entry 11). -/
def State.pointer (s : State) : Word := s.getPair .HL

end Sys2Proof.Machine
end

