-- ==== Sys2Proof/Machine/Flags.lean ====
section
/-! DEFINITION. The flag byte (10_state.md R19 to R21): six named single-bit flags in the low byte of
AF. The one flag computation of the instruction set clears the half-carry flag (45_block_copy.md
R102). Where each flag sits is the parameter `FLAG_POS` (Machine/FlagLayout.lean). -/

namespace Sys2Proof.Machine

/-- R19: `FLAG_POS[X]`, the bit of F that holds a flag in this engine. -/
def State.flagPos (s : State) (x : Flag) : Nat := s.flagLayout.pos x

/-- R20: `(v & ~(1 << pos)) | (b << pos)`. -/
def putBit (pos : Nat) (b : Bool) (v : Word) : Word :=
  (v &&& ~~~((1 : Word) <<< pos)) ||| ((if b then (1 : Word) else 0) <<< pos)

/-- R13: the flag byte F. -/
def State.flagByte (s : State) : Byte := s.main.getHalf .F

/-- R9, R19: `flag[X]`. -/
def State.getFlag (s : State) (x : Flag) : Bool := s.flagByte.getLsbD (s.flagPos x)

/-- R9, R20: `flag[X] <- b`, which changes one bit of AF. -/
def State.setFlag (s : State) (x : Flag) (b : Bool) : State :=
  s.setPair .AF (putBit (s.flagPos x) b (s.getPair .AF))

end Sys2Proof.Machine
end

