-- ==== Sys2Proof/Machine/Ops.lean ====
section
/-! DEFINITION. The named operations over memory, the program counter and the engine's status:
`MemRead` and `MemWrite` (20_memory.md R32), the fetch (40_sequencer.md R62), the advance of `pc`
(R65), the transitions of R60, and the entry into Faulted (60_exceptions.md R110, R116). There is no
return from Faulted (R118). -/

namespace Sys2Proof.Machine

/-! ### Memory -/

/-- What an address that memory does not list reads as. DESIGN CHOICE (log entry 1): the spec leaves the
content after reset open; any content can be listed, so a claim over every memory covers them all. -/
def Memory.unlistedByte : Byte := 0x00

/-- The byte at a key. -/
def Memory.lookup (k : Nat) : Memory → Byte
  | [] => Memory.unlistedByte
  | (a, b) :: m => if a = k then b else Memory.lookup k m

/-- Set the byte at a key, keeping the canonical form. -/
def Memory.store (k : Nat) (v : Byte) : Memory → Memory
  | [] => if v = Memory.unlistedByte then [] else [(k, v)]
  | (a, b) :: m =>
    if a < k then (a, b) :: Memory.store k v m
    else if a = k then (if v = Memory.unlistedByte then m else (k, v) :: m)
    else (if v = Memory.unlistedByte then (a, b) :: m else (k, v) :: (a, b) :: m)

/-- The canonical form from a key on: keys rise strictly from it, are addresses (R4), and no byte is the
one an unlisted address reads as. -/
def Memory.wfFrom (low : Nat) : Memory → Bool
  | [] => true
  | (a, b) :: m =>
    decide (low ≤ a) && decide (a < Config.memSize) && b != Memory.unlistedByte &&
      Memory.wfFrom (a + 1) m

/-- The canonical form of memory. -/
def Memory.wf (m : Memory) : Bool := Memory.wfFrom 0 m

/-- R32: `MemRead(addr, 1)` on a memory. -/
def Memory.read (m : Memory) (addr : Word) : Byte := Memory.lookup addr.toNat m

/-- R32: `MemWrite(addr, 1, v)` on a memory. -/
def Memory.write (m : Memory) (addr : Word) (v : Byte) : Memory := Memory.store addr.toNat v m

/-- Write bytes at an address and its successors, in order, one by one; addresses wrap (R31). -/
def Memory.writeBytes (m : Memory) (addr : Word) : List Byte → Memory
  | [] => m
  | v :: vs => Memory.writeBytes (m.write addr v) (addr + 1) vs

/-- R32: `MemRead(addr, 1)`. -/
def State.memRead (s : State) (addr : Word) : Byte := s.mem.read addr

/-- R32: `MemWrite(addr, 1, v)`. -/
def State.memWrite (s : State) (addr : Word) (v : Byte) : State :=
  { s with mem := s.mem.write addr v }

/-! ### The sequencer -/

/-- R65: `pc <- pc +16 len`. -/
def State.advancePc (s : State) (len : Word) : State := { s with pc := s.pc + len }

/-- R22: `status <- st`. -/
def State.withStatus (s : State) (st : Status) : State := { s with status := st }

/-- R62, R52: read the instruction at the program counter, all of its bytes before anything changes
(R39). Reading bytes past the instruction's own has no effect (R32, log entry 21). -/
def State.fetchInstr (s : State) : Except UnknownOpcode Instr :=
  decodeBytes (s.memRead s.pc) (s.memRead (s.pc + 1)) (s.memRead (s.pc + 2))

/-- R60, R61: the transition Fetching to Dispatching; the halt is never dispatched (R107). -/
def State.beginDispatch (s : State) (i : Instr) : State :=
  match i with
  | .halt => s
  | _ => s.withStatus .dispatching

/-- R60, R61: the transition Dispatching to Fetching when the handler has run. -/
def State.endDispatch (s : State) : State :=
  match s.status with
  | .dispatching => s.withStatus .fetching
  | _ => s

/-! ### Entry into Faulted -/

/-- R110: `raise UnknownOpcode(b, a)`. R116: nothing else changes. -/
def State.raiseUnknownOpcode (s : State) (b : Byte) (a : Word) : State :=
  { s with
    status := .faulted
    faultRecord := some { kind := .unknownOpcode, opcode := b, addr := a } }

/-- R110: the byte and the address recorded for a decode failure at `pc`. The second line is the
spec's decision D8 (log entry 7). -/
def State.rejectOpcode (s : State) : UnknownOpcode → State
  | .firstByte op => s.raiseUnknownOpcode op s.pc
  | .secondByte op2 => s.raiseUnknownOpcode op2 (s.pc + 1)

/-! ### Placing an instruction -/

/-- The engine about to fetch at its program counter, with these bytes stored there. -/
def State.placeAtPc (s : State) (bytes : List Byte) : State :=
  { s with status := .fetching, faultRecord := none, mem := s.mem.writeBytes s.pc bytes }

end Sys2Proof.Machine
end

