-- ==== Sys2Proof/Machine/BlockCopy.lean ====
section
/-! DEFINITION. The block copy with countdown (45_block_copy.md R99 to R106): one instruction, the
whole loop inside one step (00_scope.md R6). -/

namespace Sys2Proof.Machine

/-- R99, R100: one iteration: the byte is read before it is written, both with the pointers' old
values; then the pointers step up and the counter down. -/
def copyByte (s : State) : State :=
  { s with
    mem := s.mem.write s.main.de (s.mem.read s.main.hl)
    main := { s.main with hl := s.main.hl + 1, de := s.main.de + 1, bc := s.main.bc - 1 } }

/-- R99, R100: `repeat copyByte until BC = 0`, the test at the bottom, for at most `fuel` iterations. -/
def copyLoop : Nat → State → State
  | 0, s => s
  | fuel + 1, s => if (copyByte s).main.bc = 0 then copyByte s else copyLoop fuel (copyByte s)

/-- R99: the loop with as many iterations as it can need (R101), which a zero counter needs (R105). -/
def blockCopy (s : State) : State := copyLoop Config.maxCopyIterations s

/-- R99: `LDIR`: the loop, then the half-carry flag is cleared (R102) and `pc` moves past two bytes,
once (R104). -/
def execLdir (s : State) : Host.Outcome State Fault Refusal :=
  .next (((blockCopy s).setFlag .H false).advancePc 2)

end Sys2Proof.Machine
end

