-- ==== Sys2Proof/Machine/Halt.lean ====
section
/-! DEFINITION. The halt (46_halt.md R107). -/

namespace Sys2Proof.Machine

/-- R107: `HALT`: the status becomes Halted; `pc`, registers, flags and memory keep their values. -/
def execHalt (s : State) : Host.Outcome State Fault Refusal :=
  .next (s.withStatus .halted)

end Sys2Proof.Machine
end

