-- ==== Sys2Proof/Machine/Load16.lean ====
section
/-! DEFINITION. The 16-bit immediate load (41_ld16_imm.md R70 to R74): one shared operation, one meaning
for each of the four instructions. -/

namespace Sys2Proof.Machine

/-- R70: the destination takes the whole immediate, `pc` moves past three bytes, nothing else changes. -/
def loadImmediate16 (d : Dest16) (nn : Word) (s : State) : Host.Outcome State Fault Refusal :=
  .next ((s.writeDest16 d nn).advancePc 3)

/-- R71: `LD BC,nn`. -/
def execLdBC_nn (nn : Word) (s : State) : Host.Outcome State Fault Refusal :=
  loadImmediate16 .BC nn s

/-- R72: `LD DE,nn`. -/
def execLdDE_nn (nn : Word) (s : State) : Host.Outcome State Fault Refusal :=
  loadImmediate16 .DE nn s

/-- R73: `LD HL,nn`. -/
def execLdHL_nn (nn : Word) (s : State) : Host.Outcome State Fault Refusal :=
  loadImmediate16 .HL nn s

/-- R74: `LD SP,nn`. -/
def execLdSP_nn (nn : Word) (s : State) : Host.Outcome State Fault Refusal :=
  loadImmediate16 .SP nn s

end Sys2Proof.Machine
end

