-- ==== Sys2Proof/Machine/Load8.lean ====
section
/-! DEFINITION. The 8-bit immediate load (42_ld8_imm.md R75 to R82): one shared operation, one meaning for
each of the seven instructions. -/

namespace Sys2Proof.Machine

/-- R75: one half of one pair takes the immediate, `pc` moves past two bytes, nothing else changes. -/
def loadImmediate8 (r : Reg8) (n : Byte) (s : State) : Host.Outcome State Fault Refusal :=
  .next ((s.writeR8 r n).advancePc 2)

/-- R76: `LD B,n`. -/
def execLdB_n (n : Byte) (s : State) : Host.Outcome State Fault Refusal :=
  loadImmediate8 .B n s

/-- R77: `LD C,n`. -/
def execLdC_n (n : Byte) (s : State) : Host.Outcome State Fault Refusal :=
  loadImmediate8 .C n s

/-- R78: `LD D,n`. -/
def execLdD_n (n : Byte) (s : State) : Host.Outcome State Fault Refusal :=
  loadImmediate8 .D n s

/-- R79: `LD E,n`. -/
def execLdE_n (n : Byte) (s : State) : Host.Outcome State Fault Refusal :=
  loadImmediate8 .E n s

/-- R80: `LD H,n`. -/
def execLdH_n (n : Byte) (s : State) : Host.Outcome State Fault Refusal :=
  loadImmediate8 .H n s

/-- R81: `LD L,n`. -/
def execLdL_n (n : Byte) (s : State) : Host.Outcome State Fault Refusal :=
  loadImmediate8 .L n s

/-- R82: `LD A,n`. -/
def execLdA_n (n : Byte) (s : State) : Host.Outcome State Fault Refusal :=
  loadImmediate8 .A n s

end Sys2Proof.Machine
end

