-- ==== Sys2Proof/Machine/LoadIndirect.lean ====
section
/-! DEFINITION. The indirect load via the pointer pair (44_ld_indirect.md R91 to R98): one shared
operation, one meaning for each of the seven instructions. -/

namespace Sys2Proof.Machine

/-- R91: the destination takes the byte at the address the pointer pair holds before the write, `pc`
moves past one byte, nothing else changes. -/
def loadIndirect (r : Reg8) (s : State) : Host.Outcome State Fault Refusal :=
  .next ((s.writeR8 r (s.memRead s.pointer)).advancePc 1)

/-- R92: `LD B,(HL)`. -/
def execLdB_atHL (s : State) : Host.Outcome State Fault Refusal :=
  loadIndirect .B s

/-- R93: `LD C,(HL)`. -/
def execLdC_atHL (s : State) : Host.Outcome State Fault Refusal :=
  loadIndirect .C s

/-- R94: `LD D,(HL)`. -/
def execLdD_atHL (s : State) : Host.Outcome State Fault Refusal :=
  loadIndirect .D s

/-- R95: `LD E,(HL)`. -/
def execLdE_atHL (s : State) : Host.Outcome State Fault Refusal :=
  loadIndirect .E s

/-- R96: `LD H,(HL)`. -/
def execLdH_atHL (s : State) : Host.Outcome State Fault Refusal :=
  loadIndirect .H s

/-- R97: `LD L,(HL)`. -/
def execLdL_atHL (s : State) : Host.Outcome State Fault Refusal :=
  loadIndirect .L s

/-- R98: `LD A,(HL)`. -/
def execLdA_atHL (s : State) : Host.Outcome State Fault Refusal :=
  loadIndirect .A s

end Sys2Proof.Machine
end

