-- ==== Sys2Proof/Machine/Transfer.lean ====
section
/-! DEFINITION. The register-to-register transfer (43_ld_reg_reg.md R83 to R90): one shared operation, one
meaning for each of the 49 instructions. -/

namespace Sys2Proof.Machine

/-- R83: the destination takes the value the source held, `pc` moves past one byte, nothing else
changes. -/
def transferRegister (r r' : Reg8) (s : State) : Host.Outcome State Fault Refusal :=
  .next ((s.writeR8 r (s.readR8 r')).advancePc 1)

/-- R84: `LD B,B`. -/
def execLdB_B (s : State) : Host.Outcome State Fault Refusal :=
  transferRegister .B .B s

/-- R84: `LD B,C`. -/
def execLdB_C (s : State) : Host.Outcome State Fault Refusal :=
  transferRegister .B .C s

/-- R84: `LD B,D`. -/
def execLdB_D (s : State) : Host.Outcome State Fault Refusal :=
  transferRegister .B .D s

/-- R84: `LD B,E`. -/
def execLdB_E (s : State) : Host.Outcome State Fault Refusal :=
  transferRegister .B .E s

/-- R84: `LD B,H`. -/
def execLdB_H (s : State) : Host.Outcome State Fault Refusal :=
  transferRegister .B .H s

/-- R84: `LD B,L`. -/
def execLdB_L (s : State) : Host.Outcome State Fault Refusal :=
  transferRegister .B .L s

/-- R84: `LD B,A`. -/
def execLdB_A (s : State) : Host.Outcome State Fault Refusal :=
  transferRegister .B .A s

/-- R85: `LD C,B`. -/
def execLdC_B (s : State) : Host.Outcome State Fault Refusal :=
  transferRegister .C .B s

/-- R85: `LD C,C`. -/
def execLdC_C (s : State) : Host.Outcome State Fault Refusal :=
  transferRegister .C .C s

/-- R85: `LD C,D`. -/
def execLdC_D (s : State) : Host.Outcome State Fault Refusal :=
  transferRegister .C .D s

/-- R85: `LD C,E`. -/
def execLdC_E (s : State) : Host.Outcome State Fault Refusal :=
  transferRegister .C .E s

/-- R85: `LD C,H`. -/
def execLdC_H (s : State) : Host.Outcome State Fault Refusal :=
  transferRegister .C .H s

/-- R85: `LD C,L`. -/
def execLdC_L (s : State) : Host.Outcome State Fault Refusal :=
  transferRegister .C .L s

/-- R85: `LD C,A`. -/
def execLdC_A (s : State) : Host.Outcome State Fault Refusal :=
  transferRegister .C .A s

/-- R86: `LD D,B`. -/
def execLdD_B (s : State) : Host.Outcome State Fault Refusal :=
  transferRegister .D .B s

/-- R86: `LD D,C`. -/
def execLdD_C (s : State) : Host.Outcome State Fault Refusal :=
  transferRegister .D .C s

/-- R86: `LD D,D`. -/
def execLdD_D (s : State) : Host.Outcome State Fault Refusal :=
  transferRegister .D .D s

/-- R86: `LD D,E`. -/
def execLdD_E (s : State) : Host.Outcome State Fault Refusal :=
  transferRegister .D .E s

/-- R86: `LD D,H`. -/
def execLdD_H (s : State) : Host.Outcome State Fault Refusal :=
  transferRegister .D .H s

/-- R86: `LD D,L`. -/
def execLdD_L (s : State) : Host.Outcome State Fault Refusal :=
  transferRegister .D .L s

/-- R86: `LD D,A`. -/
def execLdD_A (s : State) : Host.Outcome State Fault Refusal :=
  transferRegister .D .A s

/-- R87: `LD E,B`. -/
def execLdE_B (s : State) : Host.Outcome State Fault Refusal :=
  transferRegister .E .B s

/-- R87: `LD E,C`. -/
def execLdE_C (s : State) : Host.Outcome State Fault Refusal :=
  transferRegister .E .C s

/-- R87: `LD E,D`. -/
def execLdE_D (s : State) : Host.Outcome State Fault Refusal :=
  transferRegister .E .D s

/-- R87: `LD E,E`. -/
def execLdE_E (s : State) : Host.Outcome State Fault Refusal :=
  transferRegister .E .E s

/-- R87: `LD E,H`. -/
def execLdE_H (s : State) : Host.Outcome State Fault Refusal :=
  transferRegister .E .H s

/-- R87: `LD E,L`. -/
def execLdE_L (s : State) : Host.Outcome State Fault Refusal :=
  transferRegister .E .L s

/-- R87: `LD E,A`. -/
def execLdE_A (s : State) : Host.Outcome State Fault Refusal :=
  transferRegister .E .A s

/-- R88: `LD H,B`. -/
def execLdH_B (s : State) : Host.Outcome State Fault Refusal :=
  transferRegister .H .B s

/-- R88: `LD H,C`. -/
def execLdH_C (s : State) : Host.Outcome State Fault Refusal :=
  transferRegister .H .C s

/-- R88: `LD H,D`. -/
def execLdH_D (s : State) : Host.Outcome State Fault Refusal :=
  transferRegister .H .D s

/-- R88: `LD H,E`. -/
def execLdH_E (s : State) : Host.Outcome State Fault Refusal :=
  transferRegister .H .E s

/-- R88: `LD H,H`. -/
def execLdH_H (s : State) : Host.Outcome State Fault Refusal :=
  transferRegister .H .H s

/-- R88: `LD H,L`. -/
def execLdH_L (s : State) : Host.Outcome State Fault Refusal :=
  transferRegister .H .L s

/-- R88: `LD H,A`. -/
def execLdH_A (s : State) : Host.Outcome State Fault Refusal :=
  transferRegister .H .A s

/-- R89: `LD L,B`. -/
def execLdL_B (s : State) : Host.Outcome State Fault Refusal :=
  transferRegister .L .B s

/-- R89: `LD L,C`. -/
def execLdL_C (s : State) : Host.Outcome State Fault Refusal :=
  transferRegister .L .C s

/-- R89: `LD L,D`. -/
def execLdL_D (s : State) : Host.Outcome State Fault Refusal :=
  transferRegister .L .D s

/-- R89: `LD L,E`. -/
def execLdL_E (s : State) : Host.Outcome State Fault Refusal :=
  transferRegister .L .E s

/-- R89: `LD L,H`. -/
def execLdL_H (s : State) : Host.Outcome State Fault Refusal :=
  transferRegister .L .H s

/-- R89: `LD L,L`. -/
def execLdL_L (s : State) : Host.Outcome State Fault Refusal :=
  transferRegister .L .L s

/-- R89: `LD L,A`. -/
def execLdL_A (s : State) : Host.Outcome State Fault Refusal :=
  transferRegister .L .A s

/-- R90: `LD A,B`. -/
def execLdA_B (s : State) : Host.Outcome State Fault Refusal :=
  transferRegister .A .B s

/-- R90: `LD A,C`. -/
def execLdA_C (s : State) : Host.Outcome State Fault Refusal :=
  transferRegister .A .C s

/-- R90: `LD A,D`. -/
def execLdA_D (s : State) : Host.Outcome State Fault Refusal :=
  transferRegister .A .D s

/-- R90: `LD A,E`. -/
def execLdA_E (s : State) : Host.Outcome State Fault Refusal :=
  transferRegister .A .E s

/-- R90: `LD A,H`. -/
def execLdA_H (s : State) : Host.Outcome State Fault Refusal :=
  transferRegister .A .H s

/-- R90: `LD A,L`. -/
def execLdA_L (s : State) : Host.Outcome State Fault Refusal :=
  transferRegister .A .L s

/-- R90: `LD A,A`. -/
def execLdA_A (s : State) : Host.Outcome State Fault Refusal :=
  transferRegister .A .A s

end Sys2Proof.Machine
end

