-- ==== Sys2Proof/Machine/Step.lean ====
section
/-! DEFINITION. The step of the sequencer (40_sequencer.md R61): fetch, decode, dispatch, one whole
instruction. -/

namespace Sys2Proof.Machine

/-- R61: run one recognized instruction: Dispatching before its meaning, Fetching after it. -/
def dispatch (i : Instr) (s : State) : Host.Outcome State Fault Refusal :=
  match exec i (s.beginDispatch i) with
  | .next t => .next t.endDispatch
  | .fault r => .fault r
  | .refused r => .refused r

/-- R61: one step. It is defined in Fetching; an unrecognized byte leads to Faulted, a next state. -/
def step (s : State) : Host.Outcome State Fault Refusal :=
  match s.status with
  | .idle => .fault .awaitingRun
  | .dispatching => .fault .handlerRunning
  | .halted => .fault .runEnded
  | .faulted => .fault .stuckInFaulted
  | .fetching =>
    match s.fetchInstr with
    | .error u => .next (s.rejectOpcode u)
    | .ok i => dispatch i s

/-- The state whose next step runs the instruction with these table bits: the host's `load` of its bytes
at the program counter and the status of a running engine (log entry 18). -/
def State.withFetchWord (s : State) (nbits w : Nat) : State :=
  s.placeAtPc (tableBytes nbits w)

end Sys2Proof.Machine
end

