-- ==== Sys2Proof/Machine/HostInterface.lean ====
section
/-! DEFINITION. The host's operations on the engine (70_reset_and_hazards.md R126 to R130): reset,
`load`, `run` and inspection. Each is atomic and acts only between runs (R140). -/

namespace Sys2Proof.Machine

/-! ### Reset -/

/-- The memory that holds `f a` at each of the first `n` addresses. -/
def Memory.ofFun (f : Word → Byte) : Nat → Memory
  | 0 => []
  | n + 1 => Memory.store n (f (BitVec.ofNat 16 n)) (Memory.ofFun f n)

/-- The memory that holds `f a` at every address `a`. Irreducible: a proof uses `Memory.read_ofContent`
and `Memory.wf_ofContent`, and does not evaluate 65536 writes. -/
@[irreducible] def Memory.ofContent (f : Word → Byte) : Memory := Memory.ofFun f Config.memSize

/-- R126, R29, R5: the engine just created, for a given `MEM_RESET` and `FLAG_POS` (D3, D10: "`OPEN` means
the model takes the named parameter as an argument"). -/
def State.resetWith (memReset : Word → Byte) (layout : FlagLayout) : State :=
  { State.reset with mem := Memory.ofContent memReset, flagLayout := layout }

/-! ### Load -/

/-- R124: what `load` returns, and the answer in a status that has no `load` (R129). -/
inductive LoadReturn where
  | ok
  | overflow
  | unavailable
  deriving DecidableEq, Repr

/-- R129: the statuses in which the host may act. -/
def Status.hostMayAct : Status → Bool
  | .idle => true
  | .fetching => false
  | .dispatching => false
  | .halted => true
  | .faulted => true

/-- R127, R111: `load(address, bytes)`: the bound is checked in unbounded integers before any byte is
written. -/
def hostLoad (address : Word) (bytes : List Byte) (s : State) : LoadReturn × State :=
  if s.status.hostMayAct then
    if address.toNat + bytes.length > Config.memSize then (.overflow, s)
    else (.ok, { s with mem := s.mem.writeBytes address bytes })
  else (.unavailable, s)

/-! ### Run -/

/-- R124: what `run` returns; the answer in a status that has no `run` (R118, R129); and what only a
model's runner can answer: the budget ran out (R67), or a step answered no next state. -/
inductive RunReturn where
  | ok
  | unknownOpcode (b : Byte) (a : Word)
  | refused
  | budgetExhausted
  | stopped
  deriving DecidableEq, Repr

/-- R128, R124: the return of a run whose status is no longer Fetching. -/
def State.runReturn (s : State) : RunReturn :=
  match s.status, s.faultRecord with
  | .halted, _ => .ok
  | .faulted, some r => .unknownOpcode r.opcode r.addr
  | _, _ => .stopped

/-- R128, R67: `while status == Fetching: step()`, for at most `budget` steps. -/
def runLoop : Nat → State → RunReturn × State
  | 0, s => if s.status = .fetching then (.budgetExhausted, s) else (s.runReturn, s)
  | budget + 1, s =>
    if s.status = .fetching then
      match step s with
      | .next t => runLoop budget t
      | .fault _ => (.stopped, s)
      | .refused _ => (.stopped, s)
    else (s.runReturn, s)

/-- R128: `pc <- start_address; status <- Fetching`. -/
def State.startRun (s : State) (start : Word) : State :=
  { s with pc := start, status := .fetching }

/-- R128: `run(start_address)`, from Idle or Halted; refused in Faulted (R118). `budget` is the optional
`RUN_BUDGET` of R5, no part of the hardware (R67). -/
def hostRun (budget : Nat) (start : Word) (s : State) : RunReturn × State :=
  match s.status with
  | .idle => runLoop budget (s.startRun start)
  | .halted => runLoop budget (s.startRun start)
  | .fetching => (.refused, s)
  | .dispatching => (.refused, s)
  | .faulted => (.refused, s)

/-! ### Inspection -/

/-- R122: what the host may read after a run. -/
structure Snapshot where
  main : RegisterSet
  alt : RegisterSet
  pc : Word
  mem : Memory
  status : Status
  /-- R23: only in Faulted. -/
  faultRecord : Option FaultRecord
  deriving DecidableEq, Repr

/-- R122, R130: the pure snapshot, available in Idle, Halted and Faulted and never during a run. -/
def hostInspect (s : State) : Option Snapshot :=
  if s.status.hostMayAct then
    some
      { main := s.main, alt := s.alt, pc := s.pc, mem := s.mem, status := s.status,
        faultRecord := if s.status = .faulted then s.faultRecord else none }
  else none

end Sys2Proof.Machine
end

