-- ==== Sys2Proof/Safety.lean ====
section
/-! DEFINITION. The terms claims about runs use: the invariant of a state between two steps, the
states an engine can have, and what ends a run well. -/

namespace Sys2Proof.Machine

/-- A state between two steps: memory is in its canonical form; a fault record is there exactly in
Faulted and is of the one kind the decoder raises (R23, R112); no handler is half done (R6); and the
six flags sit at six bits (D3). Four of these are the model's choices or the spec's (log entries 1, 6,
17, 22). -/
structure State.Inv (s : State) : Prop where
  memory : s.mem.wf = true
  recordInFaulted : s.faultRecord.isSome = decide (s.status = .faulted)
  recordKind : ∀ r ∈ s.faultRecord, r.kind = .unknownOpcode
  betweenSteps : s.status ≠ .dispatching
  distinctFlags : s.flagLayout.wf = true

/-- R126 to R129: the states an engine has from its creation on, under any host: reset with any memory
content and any legal layout of the flags, a completed `load`, the start of a `run` in Idle or
Halted, and every step of a run. -/
inductive EngineState : State → Prop where
  | reset (memReset : Word → Byte) (layout : FlagLayout) :
      layout.wf = true → EngineState (State.resetWith memReset layout)
  | load {s t : State} (address : Word) (bytes : List Byte) :
      EngineState s → hostLoad address bytes s = (.ok, t) → EngineState t
  | start {s : State} (address : Word) :
      EngineState s → s.status = .idle ∨ s.status = .halted → EngineState (s.startRun address)
  | step {s t : State} : EngineState s → Machine.step s = .next t → EngineState t

/-- R53: the 187 first bytes that are no instruction, range by range as the rule lists them (the values
are general knowledge, K5, log entry 10). -/
def unrecognizedFirstByte (op : Byte) : Bool :=
  (decide (op.toNat ≤ 0x3F) &&
      !([0x01, 0x11, 0x21, 0x31, 0x06, 0x0E, 0x16, 0x1E, 0x26, 0x2E, 0x3E] : List Byte).contains op) ||
    (decide (0x70 ≤ op.toNat) && decide (op.toNat ≤ 0x77) && op != 0x76) ||
    (decide (0x80 ≤ op.toNat) && op != 0xED)

/-- R101, R105: how many iterations a block copy makes for a counter. -/
def copyCount (counter : Word) : Nat := if counter = 0 then 65536 else counter.toNat

/-- R69: the run from `start` ends well within the budget, in the state `t`. -/
def RunSucceeds (budget : Nat) (start : Word) (s t : State) : Prop :=
  hostRun budget start s = (.ok, t)

end Sys2Proof.Machine
end

