-- ==== Sys2Proof/Certificates/Slice0/Obligations.lean ====
section
/-! DEFINITION. The statements for the provers, by kind of state and family of instruction. Each says
what the numbered rules of spec/ say the machine does; where one rests on a choice of the spec's or
the model's own, it names the log entry. -/

open Sys2Proof Sys2Proof.Machine

/-! ### Reset -/

/-- After reset the main set, the alternate set and pc are zero, so A, F and every other half and flag are zero; the status is Idle and there is no fault record. The alternate set is the spec's derivation (D9), Idle its decision (D11), the absent record the model's (log entries 3, 6, 15). -/
def Obligations.ResetRegistersAreZero : Prop :=
  (∀ p, State.reset.main.getPair p = 0) ∧ (∀ x, State.reset.main.getHalf x = 0) ∧
    (∀ x, State.reset.getFlag x = false) ∧ State.reset.main.sp = 0 ∧ State.reset.main.idx = 0 ∧
    State.reset.alt = State.reset.main ∧ State.reset.pc = 0 ∧ State.reset.status = .idle ∧
    State.reset.faultRecord = none

/-- For every content MEM_RESET and layout FLAG_POS, the engine created with them reads MEM_RESET(a) at each of the 65536 addresses a, holds that layout, has its memory in canonical form, and is State.reset in everything else. Both are the spec's open parameters (D3, D10); that memory has a canonical form is the model's choice (log entries 1, 9, 27). -/
def Obligations.ResetMemoryIsMemReset : Prop :=
  ∀ (memReset : Word → Byte) (layout : FlagLayout),
    (∀ a, (State.resetWith memReset layout).memRead a = memReset a) ∧
      (State.resetWith memReset layout).mem.wf = true ∧
      (State.resetWith memReset layout).flagLayout = layout ∧
      { State.resetWith memReset layout with mem := [], flagLayout := State.reset.flagLayout } =
        State.reset

/-! ### Registers and flags -/

/-- The read of each of the eight halves is the high or low byte of its pair, and a write of a half puts the byte there, keeps the other half of the pair, and changes no other pair, SP or IDX. -/
def Obligations.HalvesAreViewsOfPairs : Prop :=
  ∀ (g : RegisterSet) (b : Byte),
    g.getHalf .B = g.bc.extractLsb' 8 8 ∧
    g.setHalf .B b = { g with bc := b ++ g.bc.extractLsb' 0 8 } ∧
    g.getHalf .C = g.bc.extractLsb' 0 8 ∧
    g.setHalf .C b = { g with bc := g.bc.extractLsb' 8 8 ++ b } ∧
    g.getHalf .D = g.de.extractLsb' 8 8 ∧
    g.setHalf .D b = { g with de := b ++ g.de.extractLsb' 0 8 } ∧
    g.getHalf .E = g.de.extractLsb' 0 8 ∧
    g.setHalf .E b = { g with de := g.de.extractLsb' 8 8 ++ b } ∧
    g.getHalf .H = g.hl.extractLsb' 8 8 ∧
    g.setHalf .H b = { g with hl := b ++ g.hl.extractLsb' 0 8 } ∧
    g.getHalf .L = g.hl.extractLsb' 0 8 ∧
    g.setHalf .L b = { g with hl := g.hl.extractLsb' 8 8 ++ b } ∧
    g.getHalf .A = g.af.extractLsb' 8 8 ∧
    g.setHalf .A b = { g with af := b ++ g.af.extractLsb' 0 8 } ∧
    g.getHalf .F = g.af.extractLsb' 0 8 ∧
    g.setHalf .F b = { g with af := g.af.extractLsb' 8 8 ++ b }

/-- For every pair with its high and low half: the pair is (high << 8) | low; after a 16-bit write of v the halves read v >> 8 and v & 0xFF; after writing both halves, in either order, the pair reads (h << 8) | l. -/
def Obligations.PairAndHalvesAlias : Prop :=
  ∀ (g : RegisterSet) (high low : Half), low.pair = high.pair → high.isHigh = true →
    low.isHigh = false →
    g.getPair high.pair =
        ((g.getHalf high).setWidth 16 <<< 8) ||| (g.getHalf low).setWidth 16 ∧
      (∀ v : Word,
        (g.setPair high.pair v).getHalf high = (v >>> 8).setWidth 8 ∧
          (g.setPair high.pair v).getHalf low = (v &&& 0xFF).setWidth 8) ∧
      ∀ h l : Byte,
        ((g.setHalf high h).setHalf low l).getPair high.pair =
            (h.setWidth 16 <<< 8) ||| l.setWidth 16 ∧
          ((g.setHalf low l).setHalf high h).getPair high.pair =
            (h.setWidth 16 <<< 8) ||| l.setWidth 16

/-- Indices 0 to 5 and 7 name B, C, D, E, H, L and A, index 6 names none, and the pair selectors 0 to 3 name BC, DE, HL and SP. The numbering is the spec's from general knowledge (K2, D1, log entry 10). -/
def Obligations.RegisterIndexTable : Prop :=
  ([0b000, 0b001, 0b010, 0b011, 0b100, 0b101, 0b110, 0b111] : List (BitVec 3)).map Reg8.ofIndex =
      [some .B, some .C, some .D, some .E, some .H, some .L, none, some .A] ∧
    ([0b00, 0b01, 0b10, 0b11] : List (BitVec 2)).map Dest16.ofSelector = [.BC, .DE, .HL, .SP]

/-- flag[X] <- b replaces AF by (AF & ~(1 << FLAG_POS[X])) | (b << FLAG_POS[X]): bit FLAG_POS[X] becomes b, every other bit of AF and every other part of the state keep their values, for every layout FLAG_POS; and where the layout puts the six flags at six bits (D3), every other flag keeps its value. -/
def Obligations.FlagWriteChangesOneBit : Prop :=
  ∀ (s : State) (x : Flag) (b : Bool),
    s.setFlag x b =
        { s with main := { s.main with
            af := (s.main.af &&& ~~~((1 : Word) <<< s.flagPos x)) |||
              ((if b then (1 : Word) else 0) <<< s.flagPos x) } } ∧
      (∀ i, (s.setFlag x b).main.af.getLsbD i =
        if i = s.flagPos x then b else s.main.af.getLsbD i) ∧
      (s.setFlag x b).getFlag x = b ∧
      (s.flagLayout.wf = true → ∀ y, y ≠ x → (s.setFlag x b).getFlag y = s.getFlag y)

/-- In every legal layout two flags never share a bit, and in every layout each is a bit below 8 of F. The default layout, which State.reset has, is legal and puts S, Z, H, PV, N and C at bits 7, 6, 4, 2, 1 and 0: the spec's from general knowledge (K3, D3, log entry 9). -/
def Obligations.FlagPositionsAreDistinct : Prop :=
  ([.S, .Z, .H, .PV, .N, .C] : List Flag).map State.reset.flagPos = [7, 6, 4, 2, 1, 0] ∧
    State.reset.flagLayout = defaultFlagLayout ∧ defaultFlagLayout.wf = true ∧
    (∀ layout : FlagLayout, layout.wf = true → ∀ x y, layout.pos x = layout.pos y → x = y) ∧
    ∀ (layout : FlagLayout) (x : Flag), layout.pos x < 8

/-! ### Memory -/

/-- For a memory in canonical form, after MemWrite(a, 1, v) a read of a gives v, a read of any other address gives what it gave before, nothing but memory changes, and memory stays in canonical form (the form is the model's, log entry 1). -/
def Obligations.ReadAfterWriteAtEveryAddress : Prop :=
  ∀ (s : State) (a : Word) (v : Byte), s.mem.wf = true →
    (s.memWrite a v).memRead a = v ∧
      (∀ a', a' ≠ a → (s.memWrite a v).memRead a' = s.memRead a') ∧
      { s.memWrite a v with mem := s.mem } = s ∧ (s.memWrite a v).mem.wf = true

/-- The canonical form is one form for each content: if two memories in it give the same byte at every address, they are equal data. The form is the model's way of holding the spec's byte array (log entry 1). -/
def Obligations.CanonicalMemoriesReadingAlikeAreEqual : Prop :=
  ∀ m m' : Memory, m.wf = true → m'.wf = true → (∀ a : Word, m.read a = m'.read a) → m = m'

/-! ### Encoding -/

/-- The source's literal 21 34 12 11 67 45 01 04 00 ED B0 76 splits into LD HL,0x1234; LD DE,0x4567; LD BC,0x0004; LDIR; HALT, and one word of each other format decodes to its instruction (their values are general knowledge, K5, log entry 10). -/
def Obligations.DecodeOfWordsFromTheEncodingTables : Prop :=
  decode [0x21, 0x34, 0x12, 0x11] = .ok (.ldHL_nn 0x1234, [0x11]) ∧
    decode [0x11, 0x67, 0x45, 0x01] = .ok (.ldDE_nn 0x4567, [0x01]) ∧
    decode [0x01, 0x04, 0x00, 0xED] = .ok (.ldBC_nn 0x0004, [0xED]) ∧
    decode [0xED, 0xB0, 0x76] = .ok (.ldir, [0x76]) ∧ decode [0x76] = .ok (.halt, []) ∧
    decode [0b00110001, 0xFE, 0xFF] = .ok (.ldSP_nn 0xFFFE, []) ∧
    decode [0b00111110, 0x76] = .ok (.ldA_n 0x76, []) ∧
    decode [0b01111000] = .ok (.ldA_B, []) ∧ decode [0b01000111] = .ok (.ldB_A, []) ∧
    decode [0b01101110] = .ok (.ldL_atHL, [])

/-- For each of the 69 instructions with every operand value, and any bytes after it, decoding its encoding followed by those bytes gives the instruction and those bytes. The values of the fixed bits are general knowledge except 21 11 01 ED B0 76 (K5, log entry 10). -/
def Obligations.DecodeOfEncodeIsTheInstruction : Prop :=
  ∀ (i : Instr) (rest : List Byte), decode (encode i ++ rest) = .ok (i, rest)

/-- If three bytes decode to an instruction, its encoding is the first bytes of the three, as many as its length: every recognized byte sequence has one meaning and no bit of it is dropped. -/
def Obligations.EncodeOfDecodedBytesIsThoseBytes : Prop :=
  ∀ (op b1 b2 : Byte) (i : Instr), decodeBytes op b1 b2 = .ok i →
    encode i = [op, b1, b2].take i.length

/-- A first byte other than ED is rejected, with itself as the offending byte, exactly when it is one of the 187 the spec lists, among them the eight bytes 36, 70 to 75 and 77 of the reserved index (D5, log entries 10, 12). -/
def Obligations.FirstBytesRejectedAreTheListedOnes : Prop :=
  ∀ op b1 b2 : Byte, op ≠ 0xED →
    (decodeBytes op b1 b2 = .error (.firstByte op) ↔
      unrecognizedFirstByte op = true) ∧
    (unrecognizedFirstByte op = false → ∃ i, decodeBytes op b1 b2 = .ok i)

/-- When the first byte is ED, the instruction is the block copy if the second byte is B0, and otherwise the decode fails on the second byte; no other first byte leads to the block copy. -/
def Obligations.PrefixRecognizesOneInstruction : Prop :=
  ∀ b1 b2 : Byte,
    decodeBytes 0xED b1 b2 = (if b1 = 0xB0 then .ok .ldir else .error (.secondByte b1)) ∧
      ∀ op, decodeBytes op b1 b2 = .ok .ldir → op = 0xED

/-- For a first byte other than ED: if it fails, it fails alike whatever follows; if it decodes to a 16-bit load, an 8-bit load or an instruction of one byte, then with any other bytes behind it, it decodes to the load of the same register with the new immediate, or to the same instruction; and there is no further case. The halt is decoded exactly from 76. After ED the third byte decides nothing. -/
def Obligations.OperandBytesAreNotDecoded : Prop :=
  ∀ op b1 b2 c1 c2 : Byte,
    decodeBytes 0xED b1 b2 = decodeBytes 0xED b1 c2 ∧
    (op ≠ 0xED →
      (∀ u, decodeBytes op b1 b2 = .error u → decodeBytes op c1 c2 = .error u) ∧
      (∀ d nn, decodeBytes op b1 b2 = .ok (.load16 d nn) →
        decodeBytes op c1 c2 = .ok (.load16 d (c2 ++ c1))) ∧
      (∀ r n, decodeBytes op b1 b2 = .ok (.load8 r n) →
        decodeBytes op c1 c2 = .ok (.load8 r c1)) ∧
      (∀ i, decodeBytes op b1 b2 = .ok i → i.length = 1 → decodeBytes op c1 c2 = .ok i) ∧
      (∀ i, decodeBytes op b1 b2 = .ok i →
        (∃ d nn, i = .load16 d nn) ∨ (∃ r n, i = .load8 r n) ∨ i.length = 1) ∧
      (decodeBytes op b1 b2 = .ok .halt ↔ op = 0x76))

/-- The 16-bit immediate of a fetched instruction is {byte at pc+2, byte at pc+1} and the 8-bit one is the byte at pc+1, addresses modulo 65536, with no extension; and every value of either is legal. -/
def Obligations.ImmediatesComeFromTheBytesAfterTheOpcode : Prop :=
  ∀ s : State,
    (∀ d nn, s.fetchInstr = .ok (.load16 d nn) →
      nn = s.memRead (s.pc + 2) ++ s.memRead (s.pc + 1)) ∧
    (∀ r n, s.fetchInstr = .ok (.load8 r n) → n = s.memRead (s.pc + 1)) ∧
    (∀ d nn, ∃ op, decodeBytes op (loByte nn) (hiByte nn) = .ok (.load16 d nn)) ∧
    ∀ r n, ∃ op, ∀ b2, decodeBytes op n b2 = .ok (.load8 r n)

/-! ### The step -/

/-- When the status is Fetching and the bytes at pc decode to i, the step is exec of i at that state: the passage through Dispatching, which the model keeps (log entry 17), cannot be seen after the step, and the meaning itself advances pc. -/
def Obligations.StepRunsTheDecodedInstruction : Prop :=
  ∀ (s : State) (i : Instr), s.status = .fetching → s.fetchInstr = .ok i → step s = exec i s

/-- In Fetching, an unrecognized first byte op at pc gives a next state that differs only in status = Faulted and the record (op, pc); ED followed by a byte op2 other than B0 gives one that differs only in status = Faulted and the record (op2, pc+1). pc stays, and the second record is the spec's decision (D8, D16, log entries 7, 8). -/
def Obligations.UnknownOpcodeIsRecordedAndNothingElseChanges : Prop :=
  ∀ s : State, s.status = .fetching →
    (s.memRead s.pc ≠ 0xED → unrecognizedFirstByte (s.memRead s.pc) = true →
      step s = .next { s with
        status := .faulted
        faultRecord := some
          { kind := .unknownOpcode, opcode := s.memRead s.pc, addr := s.pc } }) ∧
    (s.memRead s.pc = 0xED → s.memRead (s.pc + 1) ≠ 0xB0 →
      step s = .next { s with
        status := .faulted
        faultRecord := some
          { kind := .unknownOpcode, opcode := s.memRead (s.pc + 1), addr := s.pc + 1 } })

/-- In Fetching every step answers a next state, whatever the registers and memory hold: no access, register or handler can stop it. In every other status it answers none (the step is defined in Fetching only; that it stops there is the model's choice, log entry 3). -/
def Obligations.StepAnswersNextExactlyInFetching : Prop :=
  ∀ s : State, (∃ t, step s = .next t) ↔ s.status = .fetching

/-- In Idle, Dispatching, Halted and Faulted a step stops with the fault named for that status, and never with a refusal. The spec defines no step there; the names are the model's (log entry 3). -/
def Obligations.StepStopsByNameOutsideFetching : Prop :=
  ∀ s : State,
    (s.status = .idle → step s = .fault .awaitingRun) ∧
      (s.status = .dispatching → step s = .fault .handlerRunning) ∧
      (s.status = .halted → step s = .fault .runEnded) ∧
      (s.status = .faulted → step s = .fault .stuckInFaulted)

/-- A step that answers a next state leaves the engine Halted if and only if the byte at pc at its start is 76; then nothing but the status changes. -/
def Obligations.HaltedExactlyOnTheHaltByte : Prop :=
  ∀ s t : State, step s = .next t →
    (t.status = .halted ↔ s.memRead s.pc = 0x76) ∧
      (s.memRead s.pc = 0x76 → t = { s with status := .halted })

/-- A step that answers a next state starts in Fetching and ends in Halted on 76, in Faulted on an unrecognized first byte or an ED not followed by B0, and in Fetching otherwise; it never ends in Dispatching or Idle. Which bytes are unrecognized is general knowledge (K5) and the spec's D5 (log entries 10, 12). -/
def Obligations.StepMovesTheStatusAsListed : Prop :=
  ∀ s t : State, step s = .next t →
    s.status = .fetching ∧
      t.status =
        if s.memRead s.pc = 0x76 then .halted
        else if s.memRead s.pc = 0xED then
          (if s.memRead (s.pc + 1) = 0xB0 then .fetching else .faulted)
        else if unrecognizedFirstByte (s.memRead s.pc) = true then .faulted
        else .fetching

/-- After a step that runs an instruction, pc has grown, modulo 65536, by 3 for a 16-bit immediate load, by 2 for an 8-bit immediate load and the block copy, by 1 for a transfer and an indirect load, and by 0 for the halt. -/
def Obligations.ProgramCounterAdvancesByTheEncodedLength : Prop :=
  ∀ (s t : State) (i : Instr), s.fetchInstr = .ok i → step s = .next t →
    t.pc = s.pc +
      match i.form with
      | .dd _ _ => 3
      | .ri _ _ => 2
      | .rr _ _ => 1
      | .rm _ => 1
      | .ed _ => 2
      | .hlt => 0

/-- State.reset and the reset engine for every content of memory and every legal layout of the flags meet State.Inv: memory in canonical form (the model's, log entry 1), no fault record outside Faulted (the model's, log entry 6, after the spec's D13), a status other than Dispatching (log entry 17), six flags at six bits (D3). -/
def Obligations.ResetMeetsTheInvariant : Prop :=
  State.reset.Inv ∧
    ∀ memReset layout, layout.wf = true → (State.resetWith memReset layout).Inv

/-- From every state with memory in canonical form, a fault record exactly in Faulted and of the kind UnknownOpcode, a status other than Dispatching and six flags at six bits, a step that answers a next state gives one with the same properties. The canonical form (log entry 1), the record's absence elsewhere (log entry 6; R23 says only that it has no defined content there), Dispatching as a status (log entry 17) and the other error kinds (log entry 22) are the model's choices. -/
def Obligations.StepKeepsTheInvariant : Prop :=
  ∀ s t : State, s.Inv → step s = .next t → t.Inv

/-! ### What no instruction touches -/

/-- Other values in the alternate set and IDX change nothing of what a step does but those values themselves, which it keeps. The spec derives this of IDX from its opcode table. -/
def Obligations.AlternateSetAndIdxAreInert : Prop :=
  ∀ (s : State) (alt : RegisterSet) (idx : Word),
    (∀ t, step s = .next t → t.alt = s.alt ∧ t.main.idx = s.main.idx) ∧
      step { s with alt := alt, main := { s.main with idx := idx } } =
        match step s with
        | .next t => .next { t with alt := alt, main := { t.main with idx := idx } }
        | .fault r => .fault r
        | .refused r => .refused r

/-- Another value in SP changes nothing of what a step does but that value itself, which every step but the one of LD SP,nn keeps; after LD SP,nn the old value has no effect at all. -/
def Obligations.StackPointerIsOnlyLoaded : Prop :=
  ∀ (s : State) (v : Word),
    ((∀ nn, s.fetchInstr ≠ .ok (.ldSP_nn nn)) →
      (∀ t, step s = .next t → t.main.sp = s.main.sp) ∧
        step { s with main := { s.main with sp := v } } =
          match step s with
          | .next t => .next { t with main := { t.main with sp := v } }
          | .fault r => .fault r
          | .refused r => .refused r) ∧
    ∀ nn, s.status = .fetching → s.fetchInstr = .ok (.ldSP_nn nn) →
      step { s with main := { s.main with sp := v } } = step s

/-- A step that answers a next state and does not run LDIR leaves memory as it was, every byte of it: the loads, the transfers, the halt and the entry into Faulted (the spec's D16, log entry 8) store nothing. -/
def Obligations.OnlyTheBlockCopyWritesMemory : Prop :=
  ∀ s t : State, s.fetchInstr ≠ .ok .ldir → step s = .next t →
    t.mem = s.mem ∧ ∀ a, t.memRead a = s.memRead a

/-- A step other than LDIR's keeps F; LDIR's clears flag H and keeps every other bit of F. Another value of F changes nothing of what a step does but F. So F is 0 from reset and stays 0. It holds for every layout FLAG_POS. -/
def Obligations.FlagsAreClearedByTheBlockCopyAndReadByNothing : Prop :=
  State.reset.flagByte = 0 ∧
    ∀ (s : State) (f : Byte),
      (∀ t, step s = .next t →
        (s.fetchInstr ≠ .ok .ldir → t.flagByte = s.flagByte) ∧
        (s.fetchInstr = .ok .ldir →
          t.getFlag .H = false ∧
            ∀ i, i ≠ s.flagPos .H → t.flagByte.getLsbD i = s.flagByte.getLsbD i) ∧
        (s.flagByte = 0 → t.flagByte = 0)) ∧
      (match step s, step { s with main := s.main.setHalf .F f } with
        | .next t, .next t' => { t' with main := t'.main.setHalf .F t.flagByte } = t
        | .next _, _ => False
        | .fault r, o => o = .fault r
        | .refused r, o => o = .refused r)

/-! ### 16-bit immediate loads -/

/-- The bytes 01 lo hi decode to LD BC,nn with nn = (hi lo), and at every state it answers the next state in which BC is nn and pc has grown by 3; its halves read the two bytes; F, every other register, the alternate set, the status and memory keep their values. -/
def Obligations.LoadBCImmediate : Prop :=
  (∀ lo hi : Byte, decode [0x01, lo, hi] = .ok (.ldBC_nn (hi ++ lo), [])) ∧
    ∀ (s : State) (lo hi : Byte),
      exec (.ldBC_nn (hi ++ lo)) s =
        .next { s with main := { s.main with bc := hi ++ lo }, pc := s.pc + 3 }

/-- The bytes 11 lo hi decode to LD DE,nn with nn = (hi lo), and at every state it answers the next state in which DE is nn and pc has grown by 3; its halves read the two bytes; F, every other register, the alternate set, the status and memory keep their values. -/
def Obligations.LoadDEImmediate : Prop :=
  (∀ lo hi : Byte, decode [0x11, lo, hi] = .ok (.ldDE_nn (hi ++ lo), [])) ∧
    ∀ (s : State) (lo hi : Byte),
      exec (.ldDE_nn (hi ++ lo)) s =
        .next { s with main := { s.main with de := hi ++ lo }, pc := s.pc + 3 }

/-- The bytes 21 lo hi decode to LD HL,nn with nn = (hi lo), and at every state it answers the next state in which HL is nn and pc has grown by 3; its halves read the two bytes; F, every other register, the alternate set, the status and memory keep their values. -/
def Obligations.LoadHLImmediate : Prop :=
  (∀ lo hi : Byte, decode [0x21, lo, hi] = .ok (.ldHL_nn (hi ++ lo), [])) ∧
    ∀ (s : State) (lo hi : Byte),
      exec (.ldHL_nn (hi ++ lo)) s =
        .next { s with main := { s.main with hl := hi ++ lo }, pc := s.pc + 3 }

/-- The bytes 31 lo hi decode to LD SP,nn (the byte 31 is general knowledge, D4, log entry 10), and at every state it answers the next state in which SP is nn and pc has grown by 3; F, every other register, the alternate set, the status and memory keep their values. -/
def Obligations.LoadSPImmediate : Prop :=
  (∀ lo hi : Byte, decode [0x31, lo, hi] = .ok (.ldSP_nn (hi ++ lo), [])) ∧
    ∀ (s : State) (lo hi : Byte),
      exec (.ldSP_nn (hi ++ lo)) s =
        .next { s with main := { s.main with sp := hi ++ lo }, pc := s.pc + 3 }

/-! ### 8-bit immediate loads -/

/-- The bytes 06 n, 0E n, 16 n, 1E n, 26 n, 2E n and 3E n decode to LD r,n for r = B, C, D, E, H, L and A, and at every state LD r,n answers the next state in which that half is n and pc has grown by 2; the other half of the pair (for A, the flag byte), every other register, the alternate set, the status and memory keep their values. Encodings are general knowledge (K5, log entry 10). -/
def Obligations.LoadRegisterImmediate : Prop :=
  (∀ n : Byte, decode [0x06, n] = .ok (.ldB_n n, []) ∧
      decode [0x0E, n] = .ok (.ldC_n n, []) ∧
      decode [0x16, n] = .ok (.ldD_n n, []) ∧
      decode [0x1E, n] = .ok (.ldE_n n, []) ∧
      decode [0x26, n] = .ok (.ldH_n n, []) ∧
      decode [0x2E, n] = .ok (.ldL_n n, []) ∧
      decode [0x3E, n] = .ok (.ldA_n n, [])) ∧
    ∀ (s : State) (n : Byte),
    exec (.ldB_n n) s = .next { s with
      main := { s.main with bc := n ++ s.main.bc.extractLsb' 0 8 }
      pc := s.pc + 2 } ∧
    exec (.ldC_n n) s = .next { s with
      main := { s.main with bc := s.main.bc.extractLsb' 8 8 ++ n }
      pc := s.pc + 2 } ∧
    exec (.ldD_n n) s = .next { s with
      main := { s.main with de := n ++ s.main.de.extractLsb' 0 8 }
      pc := s.pc + 2 } ∧
    exec (.ldE_n n) s = .next { s with
      main := { s.main with de := s.main.de.extractLsb' 8 8 ++ n }
      pc := s.pc + 2 } ∧
    exec (.ldH_n n) s = .next { s with
      main := { s.main with hl := n ++ s.main.hl.extractLsb' 0 8 }
      pc := s.pc + 2 } ∧
    exec (.ldL_n n) s = .next { s with
      main := { s.main with hl := s.main.hl.extractLsb' 8 8 ++ n }
      pc := s.pc + 2 } ∧
    exec (.ldA_n n) s = .next { s with
      main := { s.main with af := n ++ s.main.af.extractLsb' 0 8 }
      pc := s.pc + 2 }

/-! ### Register-to-register transfers -/

/-- The bytes 40 to 45 and 47 decode to LD B,r' for r' = B, C, D, E, H, L and A (constructors ldB_B to ldB_A), and at every state LD B,r' answers the next state in which B is what r' held and pc has grown by 1; C, every other register, F, the alternate set, the status and memory keep their values. Encodings are general knowledge (K5, log entry 10). -/
def Obligations.TransferToB : Prop :=
  (decode [0x40] = .ok (.ldB_B, []) ∧
      decode [0x41] = .ok (.ldB_C, []) ∧
      decode [0x42] = .ok (.ldB_D, []) ∧
      decode [0x43] = .ok (.ldB_E, []) ∧
      decode [0x44] = .ok (.ldB_H, []) ∧
      decode [0x45] = .ok (.ldB_L, []) ∧
      decode [0x47] = .ok (.ldB_A, [])) ∧
    ∀ s : State,
    exec .ldB_B s = .next { s with
      main := { s.main with bc := s.main.bc.extractLsb' 8 8 ++ s.main.bc.extractLsb' 0 8 }
      pc := s.pc + 1 } ∧
    exec .ldB_C s = .next { s with
      main := { s.main with bc := s.main.bc.extractLsb' 0 8 ++ s.main.bc.extractLsb' 0 8 }
      pc := s.pc + 1 } ∧
    exec .ldB_D s = .next { s with
      main := { s.main with bc := s.main.de.extractLsb' 8 8 ++ s.main.bc.extractLsb' 0 8 }
      pc := s.pc + 1 } ∧
    exec .ldB_E s = .next { s with
      main := { s.main with bc := s.main.de.extractLsb' 0 8 ++ s.main.bc.extractLsb' 0 8 }
      pc := s.pc + 1 } ∧
    exec .ldB_H s = .next { s with
      main := { s.main with bc := s.main.hl.extractLsb' 8 8 ++ s.main.bc.extractLsb' 0 8 }
      pc := s.pc + 1 } ∧
    exec .ldB_L s = .next { s with
      main := { s.main with bc := s.main.hl.extractLsb' 0 8 ++ s.main.bc.extractLsb' 0 8 }
      pc := s.pc + 1 } ∧
    exec .ldB_A s = .next { s with
      main := { s.main with bc := s.main.af.extractLsb' 8 8 ++ s.main.bc.extractLsb' 0 8 }
      pc := s.pc + 1 }

/-- The bytes 48 to 4D and 4F decode to LD C,r' for r' = B, C, D, E, H, L and A (constructors ldC_B to ldC_A), and at every state LD C,r' answers the next state in which C is what r' held and pc has grown by 1; B, every other register, F, the alternate set, the status and memory keep their values. Encodings are general knowledge (K5, log entry 10). -/
def Obligations.TransferToC : Prop :=
  (decode [0x48] = .ok (.ldC_B, []) ∧
      decode [0x49] = .ok (.ldC_C, []) ∧
      decode [0x4A] = .ok (.ldC_D, []) ∧
      decode [0x4B] = .ok (.ldC_E, []) ∧
      decode [0x4C] = .ok (.ldC_H, []) ∧
      decode [0x4D] = .ok (.ldC_L, []) ∧
      decode [0x4F] = .ok (.ldC_A, [])) ∧
    ∀ s : State,
    exec .ldC_B s = .next { s with
      main := { s.main with bc := s.main.bc.extractLsb' 8 8 ++ s.main.bc.extractLsb' 8 8 }
      pc := s.pc + 1 } ∧
    exec .ldC_C s = .next { s with
      main := { s.main with bc := s.main.bc.extractLsb' 8 8 ++ s.main.bc.extractLsb' 0 8 }
      pc := s.pc + 1 } ∧
    exec .ldC_D s = .next { s with
      main := { s.main with bc := s.main.bc.extractLsb' 8 8 ++ s.main.de.extractLsb' 8 8 }
      pc := s.pc + 1 } ∧
    exec .ldC_E s = .next { s with
      main := { s.main with bc := s.main.bc.extractLsb' 8 8 ++ s.main.de.extractLsb' 0 8 }
      pc := s.pc + 1 } ∧
    exec .ldC_H s = .next { s with
      main := { s.main with bc := s.main.bc.extractLsb' 8 8 ++ s.main.hl.extractLsb' 8 8 }
      pc := s.pc + 1 } ∧
    exec .ldC_L s = .next { s with
      main := { s.main with bc := s.main.bc.extractLsb' 8 8 ++ s.main.hl.extractLsb' 0 8 }
      pc := s.pc + 1 } ∧
    exec .ldC_A s = .next { s with
      main := { s.main with bc := s.main.bc.extractLsb' 8 8 ++ s.main.af.extractLsb' 8 8 }
      pc := s.pc + 1 }

/-- The bytes 50 to 55 and 57 decode to LD D,r' for r' = B, C, D, E, H, L and A (constructors ldD_B to ldD_A), and at every state LD D,r' answers the next state in which D is what r' held and pc has grown by 1; E, every other register, F, the alternate set, the status and memory keep their values. Encodings are general knowledge (K5, log entry 10). -/
def Obligations.TransferToD : Prop :=
  (decode [0x50] = .ok (.ldD_B, []) ∧
      decode [0x51] = .ok (.ldD_C, []) ∧
      decode [0x52] = .ok (.ldD_D, []) ∧
      decode [0x53] = .ok (.ldD_E, []) ∧
      decode [0x54] = .ok (.ldD_H, []) ∧
      decode [0x55] = .ok (.ldD_L, []) ∧
      decode [0x57] = .ok (.ldD_A, [])) ∧
    ∀ s : State,
    exec .ldD_B s = .next { s with
      main := { s.main with de := s.main.bc.extractLsb' 8 8 ++ s.main.de.extractLsb' 0 8 }
      pc := s.pc + 1 } ∧
    exec .ldD_C s = .next { s with
      main := { s.main with de := s.main.bc.extractLsb' 0 8 ++ s.main.de.extractLsb' 0 8 }
      pc := s.pc + 1 } ∧
    exec .ldD_D s = .next { s with
      main := { s.main with de := s.main.de.extractLsb' 8 8 ++ s.main.de.extractLsb' 0 8 }
      pc := s.pc + 1 } ∧
    exec .ldD_E s = .next { s with
      main := { s.main with de := s.main.de.extractLsb' 0 8 ++ s.main.de.extractLsb' 0 8 }
      pc := s.pc + 1 } ∧
    exec .ldD_H s = .next { s with
      main := { s.main with de := s.main.hl.extractLsb' 8 8 ++ s.main.de.extractLsb' 0 8 }
      pc := s.pc + 1 } ∧
    exec .ldD_L s = .next { s with
      main := { s.main with de := s.main.hl.extractLsb' 0 8 ++ s.main.de.extractLsb' 0 8 }
      pc := s.pc + 1 } ∧
    exec .ldD_A s = .next { s with
      main := { s.main with de := s.main.af.extractLsb' 8 8 ++ s.main.de.extractLsb' 0 8 }
      pc := s.pc + 1 }

/-- The bytes 58 to 5D and 5F decode to LD E,r' for r' = B, C, D, E, H, L and A (constructors ldE_B to ldE_A), and at every state LD E,r' answers the next state in which E is what r' held and pc has grown by 1; D, every other register, F, the alternate set, the status and memory keep their values. Encodings are general knowledge (K5, log entry 10). -/
def Obligations.TransferToE : Prop :=
  (decode [0x58] = .ok (.ldE_B, []) ∧
      decode [0x59] = .ok (.ldE_C, []) ∧
      decode [0x5A] = .ok (.ldE_D, []) ∧
      decode [0x5B] = .ok (.ldE_E, []) ∧
      decode [0x5C] = .ok (.ldE_H, []) ∧
      decode [0x5D] = .ok (.ldE_L, []) ∧
      decode [0x5F] = .ok (.ldE_A, [])) ∧
    ∀ s : State,
    exec .ldE_B s = .next { s with
      main := { s.main with de := s.main.de.extractLsb' 8 8 ++ s.main.bc.extractLsb' 8 8 }
      pc := s.pc + 1 } ∧
    exec .ldE_C s = .next { s with
      main := { s.main with de := s.main.de.extractLsb' 8 8 ++ s.main.bc.extractLsb' 0 8 }
      pc := s.pc + 1 } ∧
    exec .ldE_D s = .next { s with
      main := { s.main with de := s.main.de.extractLsb' 8 8 ++ s.main.de.extractLsb' 8 8 }
      pc := s.pc + 1 } ∧
    exec .ldE_E s = .next { s with
      main := { s.main with de := s.main.de.extractLsb' 8 8 ++ s.main.de.extractLsb' 0 8 }
      pc := s.pc + 1 } ∧
    exec .ldE_H s = .next { s with
      main := { s.main with de := s.main.de.extractLsb' 8 8 ++ s.main.hl.extractLsb' 8 8 }
      pc := s.pc + 1 } ∧
    exec .ldE_L s = .next { s with
      main := { s.main with de := s.main.de.extractLsb' 8 8 ++ s.main.hl.extractLsb' 0 8 }
      pc := s.pc + 1 } ∧
    exec .ldE_A s = .next { s with
      main := { s.main with de := s.main.de.extractLsb' 8 8 ++ s.main.af.extractLsb' 8 8 }
      pc := s.pc + 1 }

/-- The bytes 60 to 65 and 67 decode to LD H,r' for r' = B, C, D, E, H, L and A (constructors ldH_B to ldH_A), and at every state LD H,r' answers the next state in which H is what r' held and pc has grown by 1; L, every other register, F, the alternate set, the status and memory keep their values. Encodings are general knowledge (K5, log entry 10). -/
def Obligations.TransferToH : Prop :=
  (decode [0x60] = .ok (.ldH_B, []) ∧
      decode [0x61] = .ok (.ldH_C, []) ∧
      decode [0x62] = .ok (.ldH_D, []) ∧
      decode [0x63] = .ok (.ldH_E, []) ∧
      decode [0x64] = .ok (.ldH_H, []) ∧
      decode [0x65] = .ok (.ldH_L, []) ∧
      decode [0x67] = .ok (.ldH_A, [])) ∧
    ∀ s : State,
    exec .ldH_B s = .next { s with
      main := { s.main with hl := s.main.bc.extractLsb' 8 8 ++ s.main.hl.extractLsb' 0 8 }
      pc := s.pc + 1 } ∧
    exec .ldH_C s = .next { s with
      main := { s.main with hl := s.main.bc.extractLsb' 0 8 ++ s.main.hl.extractLsb' 0 8 }
      pc := s.pc + 1 } ∧
    exec .ldH_D s = .next { s with
      main := { s.main with hl := s.main.de.extractLsb' 8 8 ++ s.main.hl.extractLsb' 0 8 }
      pc := s.pc + 1 } ∧
    exec .ldH_E s = .next { s with
      main := { s.main with hl := s.main.de.extractLsb' 0 8 ++ s.main.hl.extractLsb' 0 8 }
      pc := s.pc + 1 } ∧
    exec .ldH_H s = .next { s with
      main := { s.main with hl := s.main.hl.extractLsb' 8 8 ++ s.main.hl.extractLsb' 0 8 }
      pc := s.pc + 1 } ∧
    exec .ldH_L s = .next { s with
      main := { s.main with hl := s.main.hl.extractLsb' 0 8 ++ s.main.hl.extractLsb' 0 8 }
      pc := s.pc + 1 } ∧
    exec .ldH_A s = .next { s with
      main := { s.main with hl := s.main.af.extractLsb' 8 8 ++ s.main.hl.extractLsb' 0 8 }
      pc := s.pc + 1 }

/-- The bytes 68 to 6D and 6F decode to LD L,r' for r' = B, C, D, E, H, L and A (constructors ldL_B to ldL_A), and at every state LD L,r' answers the next state in which L is what r' held and pc has grown by 1; H, every other register, F, the alternate set, the status and memory keep their values. Encodings are general knowledge (K5, log entry 10). -/
def Obligations.TransferToL : Prop :=
  (decode [0x68] = .ok (.ldL_B, []) ∧
      decode [0x69] = .ok (.ldL_C, []) ∧
      decode [0x6A] = .ok (.ldL_D, []) ∧
      decode [0x6B] = .ok (.ldL_E, []) ∧
      decode [0x6C] = .ok (.ldL_H, []) ∧
      decode [0x6D] = .ok (.ldL_L, []) ∧
      decode [0x6F] = .ok (.ldL_A, [])) ∧
    ∀ s : State,
    exec .ldL_B s = .next { s with
      main := { s.main with hl := s.main.hl.extractLsb' 8 8 ++ s.main.bc.extractLsb' 8 8 }
      pc := s.pc + 1 } ∧
    exec .ldL_C s = .next { s with
      main := { s.main with hl := s.main.hl.extractLsb' 8 8 ++ s.main.bc.extractLsb' 0 8 }
      pc := s.pc + 1 } ∧
    exec .ldL_D s = .next { s with
      main := { s.main with hl := s.main.hl.extractLsb' 8 8 ++ s.main.de.extractLsb' 8 8 }
      pc := s.pc + 1 } ∧
    exec .ldL_E s = .next { s with
      main := { s.main with hl := s.main.hl.extractLsb' 8 8 ++ s.main.de.extractLsb' 0 8 }
      pc := s.pc + 1 } ∧
    exec .ldL_H s = .next { s with
      main := { s.main with hl := s.main.hl.extractLsb' 8 8 ++ s.main.hl.extractLsb' 8 8 }
      pc := s.pc + 1 } ∧
    exec .ldL_L s = .next { s with
      main := { s.main with hl := s.main.hl.extractLsb' 8 8 ++ s.main.hl.extractLsb' 0 8 }
      pc := s.pc + 1 } ∧
    exec .ldL_A s = .next { s with
      main := { s.main with hl := s.main.hl.extractLsb' 8 8 ++ s.main.af.extractLsb' 8 8 }
      pc := s.pc + 1 }

/-- The bytes 78 to 7D and 7F decode to LD A,r' for r' = B, C, D, E, H, L and A (constructors ldA_B to ldA_A), and at every state LD A,r' answers the next state in which A is what r' held and pc has grown by 1; F, every other register (the flag byte is F), the alternate set, the status and memory keep their values. Encodings are general knowledge (K5, log entry 10). -/
def Obligations.TransferToA : Prop :=
  (decode [0x78] = .ok (.ldA_B, []) ∧
      decode [0x79] = .ok (.ldA_C, []) ∧
      decode [0x7A] = .ok (.ldA_D, []) ∧
      decode [0x7B] = .ok (.ldA_E, []) ∧
      decode [0x7C] = .ok (.ldA_H, []) ∧
      decode [0x7D] = .ok (.ldA_L, []) ∧
      decode [0x7F] = .ok (.ldA_A, [])) ∧
    ∀ s : State,
    exec .ldA_B s = .next { s with
      main := { s.main with af := s.main.bc.extractLsb' 8 8 ++ s.main.af.extractLsb' 0 8 }
      pc := s.pc + 1 } ∧
    exec .ldA_C s = .next { s with
      main := { s.main with af := s.main.bc.extractLsb' 0 8 ++ s.main.af.extractLsb' 0 8 }
      pc := s.pc + 1 } ∧
    exec .ldA_D s = .next { s with
      main := { s.main with af := s.main.de.extractLsb' 8 8 ++ s.main.af.extractLsb' 0 8 }
      pc := s.pc + 1 } ∧
    exec .ldA_E s = .next { s with
      main := { s.main with af := s.main.de.extractLsb' 0 8 ++ s.main.af.extractLsb' 0 8 }
      pc := s.pc + 1 } ∧
    exec .ldA_H s = .next { s with
      main := { s.main with af := s.main.hl.extractLsb' 8 8 ++ s.main.af.extractLsb' 0 8 }
      pc := s.pc + 1 } ∧
    exec .ldA_L s = .next { s with
      main := { s.main with af := s.main.hl.extractLsb' 0 8 ++ s.main.af.extractLsb' 0 8 }
      pc := s.pc + 1 } ∧
    exec .ldA_A s = .next { s with
      main := { s.main with af := s.main.af.extractLsb' 8 8 ++ s.main.af.extractLsb' 0 8 }
      pc := s.pc + 1 }

/-! ### Indirect loads -/

/-- The bytes 46, 4E, 56, 5E, 66, 6E and 7E decode to LD r,(HL) for r = B, C, D, E, H, L and A, and at every state LD r,(HL) answers the next state in which that half is the byte at the address HL held before, also when H or L is the destination, and pc has grown by 1; the rest, memory and F included, keeps its value. That the pointer pair is HL and the encodings are general knowledge (K4, D2, K5, log entries 10, 11). -/
def Obligations.LoadRegisterThroughHL : Prop :=
  (decode [0x46] = .ok (.ldB_atHL, []) ∧
      decode [0x4E] = .ok (.ldC_atHL, []) ∧
      decode [0x56] = .ok (.ldD_atHL, []) ∧
      decode [0x5E] = .ok (.ldE_atHL, []) ∧
      decode [0x66] = .ok (.ldH_atHL, []) ∧
      decode [0x6E] = .ok (.ldL_atHL, []) ∧
      decode [0x7E] = .ok (.ldA_atHL, [])) ∧
    ∀ s : State,
    exec .ldB_atHL s = .next { s with
      main := { s.main with bc := s.memRead s.main.hl ++ s.main.bc.extractLsb' 0 8 }
      pc := s.pc + 1 } ∧
    exec .ldC_atHL s = .next { s with
      main := { s.main with bc := s.main.bc.extractLsb' 8 8 ++ s.memRead s.main.hl }
      pc := s.pc + 1 } ∧
    exec .ldD_atHL s = .next { s with
      main := { s.main with de := s.memRead s.main.hl ++ s.main.de.extractLsb' 0 8 }
      pc := s.pc + 1 } ∧
    exec .ldE_atHL s = .next { s with
      main := { s.main with de := s.main.de.extractLsb' 8 8 ++ s.memRead s.main.hl }
      pc := s.pc + 1 } ∧
    exec .ldH_atHL s = .next { s with
      main := { s.main with hl := s.memRead s.main.hl ++ s.main.hl.extractLsb' 0 8 }
      pc := s.pc + 1 } ∧
    exec .ldL_atHL s = .next { s with
      main := { s.main with hl := s.main.hl.extractLsb' 8 8 ++ s.memRead s.main.hl }
      pc := s.pc + 1 } ∧
    exec .ldA_atHL s = .next { s with
      main := { s.main with af := s.memRead s.main.hl ++ s.main.af.extractLsb' 0 8 }
      pc := s.pc + 1 }

/-! ### Halt -/

/-- The byte 76 decodes to HALT, and at every state it answers the next state that differs in status = Halted alone: pc, registers, flags and memory are unchanged. After ED the byte 76 is rejected, and behind the opcode of an 8-bit or 16-bit load it is data. -/
def Obligations.HaltChangesOnlyTheStatus : Prop :=
  decode [0x76] = .ok (.halt, []) ∧
    (∀ s : State, exec .halt s = .next { s with status := .halted }) ∧
    (∀ b2, decodeBytes 0xED 0x76 b2 = .error (.secondByte 0x76)) ∧
    (∀ r, (decode (encode (.load8 r 0x76))) = .ok (.load8 r 0x76, [])) ∧
    ∀ d, (decode (encode (.load16 d 0x7676))) = .ok (.load16 d 0x7676, [])

/-! ### Block copy -/

/-- One iteration copies the byte at HL to the address in DE and steps HL and DE up and BC down, modulo 65536. If BC is then zero, LDIR answers that state with flag H cleared and pc grown by 2; if not, LDIR is LDIR at that state: at least one iteration, the test at the bottom, each iteration reading memory as the one before left it. -/
def Obligations.BlockCopyRepeatsUntilTheCounterIsZero : Prop :=
  ∀ s once : State,
    once =
      { s with
        mem := s.mem.write s.main.de (s.mem.read s.main.hl)
        main := { s.main with
          hl := s.main.hl + 1, de := s.main.de + 1, bc := s.main.bc - 1 } } →
    (once.main.bc = 0 →
      exec .ldir s = .next { once with
        main := (once.setFlag .H false).main
        pc := s.pc + 2 }) ∧
    (once.main.bc ≠ 0 → exec .ldir s = exec .ldir once)

/-- At every state LDIR answers a next state in which BC is 0, HL and DE have grown by n modulo 65536 (n = BC on entry, 65536 for 0), pc has grown by 2; A, SP, IDX, the alternate set, the status, the fault record and the flags' layout keep their values. The closed form is the spec's derivation from the loop, and the 65536 iterations for BC = 0 its decision (D7, log entry 13). -/
def Obligations.BlockCopyFinalRegisters : Prop :=
  ∀ s : State, ∃ t, exec .ldir s = .next t ∧ t.main.bc = 0 ∧
    t.main.hl = s.main.hl + BitVec.ofNat 16 (copyCount s.main.bc) ∧
    t.main.de = s.main.de + BitVec.ofNat 16 (copyCount s.main.bc) ∧
    t.pc = s.pc + 2 ∧ t.main.getHalf .A = s.main.getHalf .A ∧ t.main.sp = s.main.sp ∧
    t.main.idx = s.main.idx ∧ t.alt = s.alt ∧ t.status = s.status ∧
    t.faultRecord = s.faultRecord ∧ t.flagLayout = s.flagLayout

/-- At every state LDIR answers a next state with AF = AF & ~(1 << FLAG_POS[H]): flag H is clear whatever it was, every other bit of AF, the accumulator among them, keeps its value, and so do the other five flags where the layout is legal (D3). With the default layout AF = AF & 0xFFEF. The layout is the spec's parameter, its default general knowledge (K3, log entries 9, 27). -/
def Obligations.BlockCopyClearsTheHalfCarryFlagOnly : Prop :=
  ∀ s : State, ∃ t, exec .ldir s = .next t ∧
    t.main.af = s.main.af &&& ~~~((1 : Word) <<< s.flagPos .H) ∧ t.getFlag .H = false ∧
    (∀ i, i ≠ s.flagPos .H → t.main.af.getLsbD i = s.main.af.getLsbD i) ∧
    (s.flagLayout.wf = true → ∀ x, x ≠ .H → t.getFlag x = s.getFlag x) ∧
    (s.flagLayout = defaultFlagLayout → t.main.af = s.main.af &&& 0xFFEF)

/-- With memory in canonical form, LDIR answers a next state in which every address that is not DE + i modulo 65536, for an i below the count, reads as before. The canonical form is the model's (log entry 1), the count 65536 for BC = 0 the spec's decision (D7, log entry 13). -/
def Obligations.BlockCopyWritesItsDestinationOnly : Prop :=
  ∀ s : State, s.mem.wf = true → ∃ t, exec .ldir s = .next t ∧
    ∀ a : Word, (∀ i, i < copyCount s.main.bc → a ≠ s.main.de + BitVec.ofNat 16 i) →
      t.memRead a = s.memRead a

/-- With memory in canonical form, k = DE - HL modulo 65536 and n the count: after LDIR, address DE + i, for i below n, holds the byte that HL + i held before if k = 0 or k >= n, and the byte that HL + (i mod k) held before if 1 <= k < n; if k = 0, memory is unchanged. The closed form is the spec's derivation from the loop; that BC = 0 counts 65536 is its decision (D7, log entry 13), the canonical form the model's (log entry 1). -/
def Obligations.BlockCopyMemoryClosedForm : Prop :=
  ∀ s : State, s.mem.wf = true → ∃ t, exec .ldir s = .next t ∧
    (∀ i, i < copyCount s.main.bc →
      t.memRead (s.main.de + BitVec.ofNat 16 i) =
        s.memRead (s.main.hl + BitVec.ofNat 16
          (if s.main.de = s.main.hl ∨ copyCount s.main.bc ≤ (s.main.de - s.main.hl).toNat
            then i else i % (s.main.de - s.main.hl).toNat))) ∧
    (s.main.de = s.main.hl → t.mem = s.mem)

/-- With BC = 0 and memory in canonical form, LDIR answers a next state with HL, DE and BC as on entry, memory unchanged if DE = HL, and otherwise memory of period k = DE - HL: DE + i holds what HL + (i mod k) held, for every i below 65536. That the zero counter is kept so is the spec's decision (D7, log entry 13), the canonical form the model's (log entry 1). -/
def Obligations.BlockCopyWithCounterZeroCoversMemory : Prop :=
  ∀ s : State, s.mem.wf = true → s.main.bc = 0 → ∃ t, exec .ldir s = .next t ∧
    t.main.hl = s.main.hl ∧ t.main.de = s.main.de ∧ t.main.bc = 0 ∧
    (s.main.de = s.main.hl → t.mem = s.mem) ∧
    (s.main.de ≠ s.main.hl → ∀ i, i < 65536 →
      t.memRead (s.main.de + BitVec.ofNat 16 i) =
        s.memRead (s.main.hl + BitVec.ofNat 16 (i % (s.main.de - s.main.hl).toNat)))

/-- In Fetching with ED B0 at pc, one step answers a next state that is again Fetching, at pc + 2, with BC zero and both pointers past the whole run, whether or not the destination covers pc: the instruction is fetched once. That one step runs the whole loop is the spec's decision D19 (log entry 14), that its bytes are read before it writes is D14 (log entry 21). -/
def Obligations.BlockCopyCompletesInOneStepOverItself : Prop :=
  ∀ s : State, s.status = .fetching → s.memRead s.pc = 0xED → s.memRead (s.pc + 1) = 0xB0 →
    ∃ t, step s = .next t ∧ t.status = .fetching ∧ t.pc = s.pc + 2 ∧ t.main.bc = 0 ∧
      t.main.hl = s.main.hl + s.main.bc ∧ t.main.de = s.main.de + s.main.bc

/-! ### The host interface -/

/-- Where the host may act, load(address, bytes) with address + length > 65536, in unbounded integers, returns Overflow and leaves the state as it was, status included; with address + length <= 65536 it returns Ok. -/
def Obligations.LoadOverflowsExactlyPastTheLastAddress : Prop :=
  ∀ (s : State) (address : Word) (bytes : List Byte), s.status.hostMayAct = true →
    (address.toNat + bytes.length > 65536 → hostLoad address bytes s = (.overflow, s)) ∧
      (address.toNat + bytes.length ≤ 65536 → (hostLoad address bytes s).1 = .ok)

/-- Where the host may act, with memory in canonical form and address + length <= 65536, load returns Ok with a state in which the i-th byte stands at address + i, every address outside the range reads as before, and registers, pc, status, fault record and the flags' layout are unchanged, and memory is in canonical form again. The canonical form is the model's choice, no rule's (log entry 1). -/
def Obligations.LoadCopiesItsBytesAndNothingElse : Prop :=
  ∀ (s : State) (address : Word) (bytes : List Byte), s.status.hostMayAct = true →
    s.mem.wf = true → address.toNat + bytes.length ≤ 65536 →
    ∃ t, hostLoad address bytes s = (.ok, t) ∧
      (∀ i (h : i < bytes.length), t.memRead (address + BitVec.ofNat 16 i) = bytes[i]) ∧
      (∀ a : Word, a.toNat < address.toNat ∨ address.toNat + bytes.length ≤ a.toNat →
        t.memRead a = s.memRead a) ∧
      { t with mem := s.mem } = s ∧ t.mem.wf = true

/-- From Idle or Halted, run(start) with a budget of one step or more goes on from the state that differs in pc = start and status = Fetching alone: it makes a step, and the loop makes a step while the status is Fetching and then returns Ok in Halted and the fault record in Faulted. In Faulted it is refused and changes nothing. A run from Halted and the refusal in Faulted are the spec's D12 and D15 (log entries 4, 5), the budget is its D20 (log entry 20); that run answers refused in Fetching and Dispatching too, where R129 gives the host no move, is the model's choice (log entry 23). -/
def Obligations.RunSetsPcAndStatusAndRepeatsTheStep : Prop :=
  ∀ (s : State) (start : Word) (budget : Nat),
    (s.status = .idle ∨ s.status = .halted → ∀ t,
      step { s with pc := start, status := .fetching } = .next t →
        hostRun (budget + 1) start s = runLoop budget t) ∧
    (s.status = .fetching → ∀ t, step s = .next t →
      runLoop (budget + 1) s = runLoop budget t) ∧
    (s.status = .halted → runLoop budget s = (.ok, s)) ∧
    (s.status = .faulted → ∀ r, s.faultRecord = some r →
      runLoop budget s = (.unknownOpcode r.opcode r.addr, s)) ∧
    (s.status = .fetching ∨ s.status = .dispatching ∨ s.status = .faulted →
      hostRun budget start s = (.refused, s))

/-- If run returns Ok, the engine is Halted with the byte 76 at pc. If it returns UnknownOpcode(b, a), the engine is Faulted with that record, memory holds b at a, and either a is pc and b an unrecognized first byte, or a is pc + 1 behind an ED at pc and b is not B0. That an ED miss names the byte at pc + 1 and that pc stays on the first byte of the failing instruction is the spec's decision D8 (log entries 7, 8); which bytes are unrecognized is K5 and D5 (log entries 10, 12). -/
def Obligations.RunEndsAsItReports : Prop :=
  ∀ (budget : Nat) (start : Word) (s t : State),
    (hostRun budget start s = (.ok, t) → t.status = .halted ∧ t.memRead t.pc = 0x76) ∧
      ∀ b a, hostRun budget start s = (.unknownOpcode b a, t) →
        t.status = .faulted ∧
          t.faultRecord = some { kind := .unknownOpcode, opcode := b, addr := a } ∧
          t.memRead a = b ∧
          ((a = t.pc ∧ b ≠ 0xED ∧ unrecognizedFirstByte b = true) ∨
            (a = t.pc + 1 ∧ t.memRead t.pc = 0xED ∧ b ≠ 0xB0))

/-- Inside a run no step stops: whatever the state and the budget, run never returns `stopped`, the model's answer for a step without a next state (log entry 23). -/
def Obligations.RunNeverStopsWithoutAReason : Prop :=
  ∀ (budget : Nat) (start : Word) (s : State), (hostRun budget start s).1 ≠ .stopped

/-- If a run returns anything but the end of its budget, then with any larger budget it returns the same and leaves the same state: the budget is a property of the runner, no part of the hardware (D20, log entry 20). -/
def Obligations.BudgetDoesNotChangeAFinishedRun : Prop :=
  ∀ (budget extra : Nat) (start : Word) (s : State),
    (hostRun budget start s).1 ≠ .budgetExhausted →
      hostRun (budget + extra) start s = hostRun budget start s

/-- The snapshot is available exactly in Idle, Halted and Faulted; it holds both register sets, pc, memory and the status, and the fault record in Faulted only (that it is absent elsewhere is the model's, log entry 6). -/
def Obligations.InspectionIsAvailableBetweenRuns : Prop :=
  ∀ s : State,
    ((hostInspect s).isSome = true ↔
      s.status = .idle ∨ s.status = .halted ∨ s.status = .faulted) ∧
    ∀ v, hostInspect s = some v →
      v.main = s.main ∧ v.alt = s.alt ∧ v.pc = s.pc ∧ v.mem = s.mem ∧ v.status = s.status ∧
        (s.status = .faulted → v.faultRecord = s.faultRecord) ∧
        (s.status ≠ .faulted → v.faultRecord = none)

/-- From the creation of an engine with any MEM_RESET and any legal FLAG_POS on, through any loads, runs and steps, the alternate set, IDX and the flag byte are zero and State.Inv holds: memory is in canonical form (the model's, log entry 1), the fault record is there exactly in Faulted (the model's, log entry 6). The alternate set's reset value is the spec's derivation (D9, log entry 15), and a second run after a halt is its D12 (log entry 4). -/
def Obligations.EveryEngineStateKeepsItsInertState : Prop :=
  ∀ s : State, EngineState s →
    s.Inv ∧ s.alt = RegisterSet.reset ∧ s.main.idx = 0 ∧ s.flagByte = 0

/-- A step, a load and a run keep the layout of the flags; another layout changes nothing of what a step other than LDIR's does. That the spec's open parameter FLAG_POS (D3) is held in the state is the model's choice (log entry 27). -/
def Obligations.FlagLayoutIsAParameterThatOnlyTheBlockCopyReads : Prop :=
  ∀ (s : State) (layout : FlagLayout),
    (∀ t, step s = .next t → t.flagLayout = s.flagLayout) ∧
      (∀ address bytes, (hostLoad address bytes s).2.flagLayout = s.flagLayout) ∧
      (∀ budget start, (hostRun budget start s).2.flagLayout = s.flagLayout) ∧
      (s.fetchInstr ≠ .ok .ldir →
        step { s with flagLayout := layout } =
          match step s with
          | .next t => .next { t with flagLayout := layout }
          | .fault r => .fault r
          | .refused r => .refused r)

/-- From every state that meets State.Inv and has the flag byte zero, a step that answers a next state gives one that meets State.Inv and has the flag byte zero, the alternate set and IDX being what they were; so the zeros of reset stay, whatever program runs. State.Inv's canonical form and absent record are the model's choices (log entries 1, 6), as are its Dispatching and error kinds (log entries 17, 22). -/
def Obligations.StepKeepsTheInertStateAndTheInvariant : Prop :=
  ∀ s t : State, s.Inv → s.flagByte = 0 → step s = .next t →
    t.Inv ∧ t.flagByte = 0 ∧ t.alt = s.alt ∧ t.main.idx = s.main.idx ∧
      t.flagLayout = s.flagLayout
end

