-- ==== Sys2Proof/Laws/Bits.lean ====
section
/-! SUPPORT. What the bit-field operations compute: splitting and joining a word (00_scope.md R7), the
halves of a pair (10_state.md R11, R12) and the write of one bit (R20). -/

namespace Sys2Proof

@[simp] theorem hiByte_joinBytes (h l : Byte) : hiByte (joinBytes h l) = h := by
  unfold hiByte joinBytes
  ext i hi
  simp only [BitVec.getElem_extractLsb', BitVec.getLsbD_append]
  rw [if_neg (by omega), show 8 + i - 8 = i by omega, BitVec.getLsbD_eq_getElem hi]

@[simp] theorem loByte_joinBytes (h l : Byte) : loByte (joinBytes h l) = l := by
  unfold loByte joinBytes
  ext i hi
  simp only [BitVec.getElem_extractLsb', BitVec.getLsbD_append]
  rw [if_pos (by omega), show 0 + i = i by omega, BitVec.getLsbD_eq_getElem hi]

@[simp] theorem joinBytes_hiByte_loByte (v : Word) : joinBytes (hiByte v) (loByte v) = v := by
  unfold hiByte loByte joinBytes
  ext i hi
  simp only [BitVec.getElem_append, BitVec.getElem_extractLsb']
  split
  · rw [show 0 + i = i by omega, BitVec.getLsbD_eq_getElem hi]
  · rw [show 8 + (i - 8) = i by omega, BitVec.getLsbD_eq_getElem hi]

/-- Two words with the same bytes are equal. -/
theorem word_ext {v w : Word} (hh : hiByte v = hiByte w) (hl : loByte v = loByte w) : v = w := by
  rw [← joinBytes_hiByte_loByte v, ← joinBytes_hiByte_loByte w, hh, hl]

namespace Machine

@[simp] theorem RegisterSet.getPair_setPair_same (g : RegisterSet) (p : Pair) (v : Word) :
    (g.setPair p v).getPair p = v := by cases p <;> rfl

theorem RegisterSet.getPair_setPair_other (g : RegisterSet) {p q : Pair} (v : Word) (h : q ≠ p) :
    (g.setPair p v).getPair q = g.getPair q := by
  cases p <;> cases q <;> first | rfl | exact absurd rfl h

@[simp] theorem RegisterSet.getHalf_setHalf_same (g : RegisterSet) (x : Half) (b : Byte) :
    (g.setHalf x b).getHalf x = b := by
  cases x <;> simp [RegisterSet.getHalf, RegisterSet.setHalf, Half.isHigh]

/-- R11: a write of one half leaves every other half as it was. -/
theorem RegisterSet.getHalf_setHalf_other (g : RegisterSet) {x y : Half} (b : Byte) (h : y ≠ x) :
    (g.setHalf x b).getHalf y = g.getHalf y := by
  cases x <;> cases y <;> first
    | exact absurd rfl h
    | simp [RegisterSet.getHalf, RegisterSet.setHalf, Half.isHigh, Half.pair,
        RegisterSet.getPair, RegisterSet.setPair]

theorem halfOf_injective {r q : Reg8} (h : halfOf r = halfOf q) : r = q := by
  cases r <;> cases q <;> first | rfl | exact absurd h (by decide)

theorem halfOf_ne_F (r : Reg8) : Half.F ≠ halfOf r := by cases r <;> decide

/-- R20: the write of one bit, bit by bit. -/
theorem getLsbD_putBit (pos : Nat) (b : Bool) (v : Word) (i : Nat) (hp : pos < 16) :
    (putBit pos b v).getLsbD i = if i = pos then b else v.getLsbD i := by
  by_cases hi : i < 16
  · by_cases h : i = pos
    · subst h
      cases b <;> simp [putBit, hi]
    · by_cases hlt : i < pos
      · cases b <;> simp [putBit, hi, h, hlt]
      · have : i - pos ≠ 0 := by omega
        cases b <;> simp [putBit, hi, h, this]
  · have h : i ≠ pos := by omega
    simp [putBit, h, BitVec.getLsbD_of_ge _ _ (Nat.le_of_not_lt hi)]

theorem FlagLayout.pos_lt (l : FlagLayout) (x : Flag) : l.pos x < 8 := by cases x <;> exact Fin.isLt _

theorem State.flagPos_lt (s : State) (x : Flag) : s.flagPos x < 8 := s.flagLayout.pos_lt x

/-- D3: in a legal layout two flags never share a bit. -/
theorem FlagLayout.pos_injective {l : FlagLayout} (hl : l.wf = true) {x y : Flag}
    (h : l.pos x = l.pos y) : x = y := by
  have hd := of_decide_eq_true hl
  simp only [List.nodup_cons, List.mem_cons, List.not_mem_nil, or_false, not_or, Fin.ext_iff] at hd
  cases x <;> cases y <;> first | rfl | (simp only [FlagLayout.pos] at h; omega)

end Machine

end Sys2Proof
end

