-- ==== Sys2Proof/Laws/Memory.lean ====
section
/-! SUPPORT. The laws of memory (20_memory.md R32, R35): a read after a write to the same address gives
the value written, a write leaves every other address alone, every operation keeps the canonical
form, and memories in that form that read alike are equal. -/

namespace Sys2Proof.Machine

/-! ### The canonical form -/

theorem Memory.wfFrom_cons {low a : Nat} {b : Byte} {m : Memory} :
    Memory.wfFrom low ((a, b) :: m) = true ↔
      low ≤ a ∧ a < Config.memSize ∧ b ≠ Memory.unlistedByte ∧ Memory.wfFrom (a + 1) m = true := by
  simp [Memory.wfFrom, and_assoc]

theorem Memory.wfFrom_mono {low low' : Nat} {m : Memory} (h : low' ≤ low)
    (hm : Memory.wfFrom low m = true) : Memory.wfFrom low' m = true := by
  cases m with
  | nil => rfl
  | cons c m =>
    obtain ⟨a, b⟩ := c
    rw [Memory.wfFrom_cons] at hm ⊢
    exact ⟨by omega, hm.2⟩

/-- A key below a memory's first one is not listed. -/
theorem Memory.lookup_below {low k : Nat} {m : Memory} (hm : Memory.wfFrom low m = true)
    (hk : k < low) : Memory.lookup k m = Memory.unlistedByte := by
  induction m generalizing low with
  | nil => rfl
  | cons c m ih =>
    obtain ⟨a, b⟩ := c
    obtain ⟨h1, -, -, h4⟩ := Memory.wfFrom_cons.1 hm
    have hne : a ≠ k := by omega
    simp only [Memory.lookup, hne, if_false]
    exact ih h4 (by omega)

theorem Memory.wfFrom_store {low k : Nat} {v : Byte} {m : Memory} (hm : Memory.wfFrom low m = true)
    (hlow : low ≤ k) (hk : k < Config.memSize) : Memory.wfFrom low (Memory.store k v m) = true := by
  induction m generalizing low with
  | nil =>
    unfold Memory.store
    split
    · rfl
    · next hv => exact Memory.wfFrom_cons.2 ⟨hlow, hk, hv, rfl⟩
  | cons c m ih =>
    obtain ⟨a, b⟩ := c
    obtain ⟨h1, h2, h3, h4⟩ := Memory.wfFrom_cons.1 hm
    unfold Memory.store
    split
    · next h => exact Memory.wfFrom_cons.2 ⟨h1, h2, h3, ih h4 (by omega)⟩
    · split
      · next h =>
        split
        · exact Memory.wfFrom_mono (by omega) h4
        · next hv => exact Memory.wfFrom_cons.2 ⟨hlow, hk, hv, h ▸ h4⟩
      · split
        · exact hm
        · next hv =>
          exact Memory.wfFrom_cons.2 ⟨hlow, hk, hv, Memory.wfFrom_cons.2 ⟨by omega, h2, h3, h4⟩⟩

theorem Memory.lookup_store_same {low k : Nat} {v : Byte} {m : Memory}
    (hm : Memory.wfFrom low m = true) : Memory.lookup k (Memory.store k v m) = v := by
  induction m generalizing low with
  | nil =>
    unfold Memory.store
    split
    · next hv => simp [Memory.lookup, hv]
    · simp [Memory.lookup]
  | cons c m ih =>
    obtain ⟨a, b⟩ := c
    obtain ⟨h1, h2, h3, h4⟩ := Memory.wfFrom_cons.1 hm
    unfold Memory.store
    split
    · next h =>
      have hne : a ≠ k := by omega
      simpa [Memory.lookup, hne] using ih h4
    · split
      · next h =>
        split
        · next hv => rw [Memory.lookup_below h4 (by omega), hv]
        · simp [Memory.lookup]
      · split
        · next hak hne hv =>
          rw [hv]
          exact Memory.lookup_below (low := k + 1)
            (Memory.wfFrom_cons.2 ⟨by omega, h2, h3, h4⟩) (by omega)
        · simp [Memory.lookup]

theorem Memory.lookup_store_other {low k j : Nat} {v : Byte} {m : Memory}
    (hm : Memory.wfFrom low m = true) (hj : j ≠ k) :
    Memory.lookup j (Memory.store k v m) = Memory.lookup j m := by
  have hkj : k ≠ j := Ne.symm hj
  induction m generalizing low with
  | nil =>
    unfold Memory.store
    split
    · rfl
    · simp [Memory.lookup, hkj]
  | cons c m ih =>
    obtain ⟨a, b⟩ := c
    obtain ⟨h1, h2, h3, h4⟩ := Memory.wfFrom_cons.1 hm
    unfold Memory.store
    split
    · simp only [Memory.lookup, ih h4]
    · split
      · next h => split <;> simp [Memory.lookup, hkj, h]
      · split
        · rfl
        · simp [Memory.lookup, hkj]

/-- A memory in canonical form is settled by what it reads. -/
theorem Memory.ext_lookup {low : Nat} {m m' : Memory} (hm : Memory.wfFrom low m = true)
    (hm' : Memory.wfFrom low m' = true) (h : ∀ k, Memory.lookup k m = Memory.lookup k m') :
    m = m' := by
  induction m generalizing low m' with
  | nil =>
    cases m' with
    | nil => rfl
    | cons c m' =>
      obtain ⟨a, b⟩ := c
      obtain ⟨-, -, h3, -⟩ := Memory.wfFrom_cons.1 hm'
      have := h a
      simp only [Memory.lookup, if_true] at this
      exact absurd this.symm h3
  | cons c m ih =>
    obtain ⟨a, b⟩ := c
    obtain ⟨h1, h2, h3, h4⟩ := Memory.wfFrom_cons.1 hm
    cases m' with
    | nil =>
      have := h a
      simp only [Memory.lookup, if_true] at this
      exact absurd this h3
    | cons c' m' =>
      obtain ⟨a', b'⟩ := c'
      obtain ⟨h1', h2', h3', h4'⟩ := Memory.wfFrom_cons.1 hm'
      have haa : a = a' := by
        rcases Nat.lt_trichotomy a a' with hlt | heq | hgt
        · have ha := h a
          have hne : a' ≠ a := by omega
          simp only [Memory.lookup, if_true, hne, if_false] at ha
          rw [Memory.lookup_below h4' (by omega)] at ha
          exact absurd ha h3
        · exact heq
        · have ha := h a'
          have hne : a ≠ a' := by omega
          simp only [Memory.lookup, if_true, hne, if_false] at ha
          rw [Memory.lookup_below h4 (by omega)] at ha
          exact absurd ha.symm h3'
      subst haa
      have hbb : b = b' := by simpa [Memory.lookup] using h a
      subst hbb
      have htail : m = m' := by
        refine ih h4 h4' fun k => ?_
        by_cases hk : a = k
        · subst hk
          rw [Memory.lookup_below h4 (by omega), Memory.lookup_below h4' (by omega)]
        · simpa [Memory.lookup, hk] using h k
      rw [htail]

/-! ### Reads and writes at addresses -/

theorem Memory.toNat_lt (a : Word) : a.toNat < Config.memSize := a.isLt

@[simp] theorem Memory.wf_nil : Memory.wf [] = true := rfl

theorem Memory.wf_write {m : Memory} (hm : m.wf = true) (a : Word) (v : Byte) :
    (m.write a v).wf = true :=
  Memory.wfFrom_store hm (Nat.zero_le _) (Memory.toNat_lt a)

/-- R35: writing a byte then reading it returns that byte. -/
theorem Memory.read_write_same {m : Memory} (hm : m.wf = true) (a : Word) (v : Byte) :
    (m.write a v).read a = v :=
  Memory.lookup_store_same hm

/-- R32: a write changes no other byte. -/
theorem Memory.read_write_other {m : Memory} (hm : m.wf = true) {a a' : Word} (v : Byte)
    (h : a' ≠ a) : (m.write a v).read a' = m.read a' :=
  Memory.lookup_store_other hm fun h' => h (BitVec.eq_of_toNat_eq h')

/-- Writing back what an address reads as changes nothing. -/
theorem Memory.write_read_self {m : Memory} (hm : m.wf = true) (a : Word) :
    m.write a (m.read a) = m := by
  refine Memory.ext_lookup (low := 0) (Memory.wf_write hm a _) hm fun k => ?_
  by_cases h : k = a.toNat
  · subst h
    exact Memory.lookup_store_same hm
  · exact Memory.lookup_store_other hm h

theorem Memory.wf_writeBytes {m : Memory} (hm : m.wf = true) (a : Word) (vs : List Byte) :
    (m.writeBytes a vs).wf = true := by
  induction vs generalizing m a with
  | nil => exact hm
  | cons v vs ih => exact ih (Memory.wf_write hm a v) (a + 1)

/-- An address at or past the end of the keys is not listed. -/
theorem Memory.lookup_above {low k : Nat} {m : Memory} (hm : Memory.wfFrom low m = true)
    (hk : Config.memSize ≤ k) : Memory.lookup k m = Memory.unlistedByte := by
  induction m generalizing low with
  | nil => rfl
  | cons c m ih =>
    obtain ⟨a, b⟩ := c
    obtain ⟨h1, h2, -, h4⟩ := Memory.wfFrom_cons.1 hm
    have hne : a ≠ k := by omega
    simpa only [Memory.lookup, hne, if_false] using ih h4

/-! ### The memory of a function -/

theorem Memory.wf_ofFun (f : Word → Byte) {n : Nat} (hn : n ≤ Config.memSize) :
    (Memory.ofFun f n).wf = true := by
  induction n with
  | zero => rfl
  | succ n ih => exact Memory.wfFrom_store (ih (by omega)) (Nat.zero_le _) (by omega)

theorem Memory.lookup_ofFun (f : Word → Byte) {n k : Nat} (hn : n ≤ Config.memSize) (hk : k < n) :
    Memory.lookup k (Memory.ofFun f n) = f (BitVec.ofNat 16 k) := by
  induction n with
  | zero => omega
  | succ n ih =>
    have hwf := Memory.wf_ofFun f (n := n) (by omega)
    by_cases h : k = n
    · subst h
      exact Memory.lookup_store_same hwf
    · exact (Memory.lookup_store_other hwf h).trans (ih (by omega) (by omega))

theorem Memory.wf_ofContent (f : Word → Byte) : (Memory.ofContent f).wf = true := by
  unfold Memory.ofContent
  exact Memory.wf_ofFun f (Nat.le_refl _)

/-- R29: the reset engine reads `MEM_RESET`. -/
@[simp] theorem Memory.read_ofContent (f : Word → Byte) (a : Word) :
    (Memory.ofContent f).read a = f a := by
  unfold Memory.ofContent
  rw [Memory.read, Memory.lookup_ofFun f (Nat.le_refl _) (Memory.toNat_lt a), BitVec.ofNat_toNat,
    BitVec.setWidth_eq]

@[simp] theorem State.resetWith_mem (f : Word → Byte) (l : FlagLayout) :
    (State.resetWith f l).mem = Memory.ofContent f := rfl

end Sys2Proof.Machine
end

