-- ==== Sys2Proof/Laws/State.lean ====
section
/-! SUPPORT. One lemma for each field of `State` and each update, all true by definition and tagged
`simp`, so that no later proof unfolds a record update. -/

namespace Sys2Proof.Machine

/-! ### `setPair` -/

@[simp] theorem State.setPair_main (s : State) (p : Pair) (v : Word) :
    (s.setPair p v).main = s.main.setPair p v := rfl

@[simp] theorem State.setPair_alt (s : State) (p : Pair) (v : Word) :
    (s.setPair p v).alt = s.alt := rfl

@[simp] theorem State.setPair_pc (s : State) (p : Pair) (v : Word) :
    (s.setPair p v).pc = s.pc := rfl

@[simp] theorem State.setPair_status (s : State) (p : Pair) (v : Word) :
    (s.setPair p v).status = s.status := rfl

@[simp] theorem State.setPair_faultRecord (s : State) (p : Pair) (v : Word) :
    (s.setPair p v).faultRecord = s.faultRecord := rfl

@[simp] theorem State.setPair_mem (s : State) (p : Pair) (v : Word) :
    (s.setPair p v).mem = s.mem := rfl

@[simp] theorem State.setPair_flagLayout (s : State) (p : Pair) (v : Word) :
    (s.setPair p v).flagLayout = s.flagLayout := rfl

/-! ### `writeR8` -/

@[simp] theorem State.writeR8_main (s : State) (r : Reg8) (b : Byte) :
    (s.writeR8 r b).main = s.main.setHalf (halfOf r) b := rfl

@[simp] theorem State.writeR8_alt (s : State) (r : Reg8) (b : Byte) :
    (s.writeR8 r b).alt = s.alt := rfl

@[simp] theorem State.writeR8_pc (s : State) (r : Reg8) (b : Byte) :
    (s.writeR8 r b).pc = s.pc := rfl

@[simp] theorem State.writeR8_status (s : State) (r : Reg8) (b : Byte) :
    (s.writeR8 r b).status = s.status := rfl

@[simp] theorem State.writeR8_faultRecord (s : State) (r : Reg8) (b : Byte) :
    (s.writeR8 r b).faultRecord = s.faultRecord := rfl

@[simp] theorem State.writeR8_mem (s : State) (r : Reg8) (b : Byte) :
    (s.writeR8 r b).mem = s.mem := rfl

@[simp] theorem State.writeR8_flagLayout (s : State) (r : Reg8) (b : Byte) :
    (s.writeR8 r b).flagLayout = s.flagLayout := rfl

/-! ### `setFlag` -/

@[simp] theorem State.setFlag_main (s : State) (x : Flag) (b : Bool) :
    (s.setFlag x b).main = s.main.setPair .AF (putBit (s.flagPos x) b s.main.af) := rfl

@[simp] theorem State.setFlag_alt (s : State) (x : Flag) (b : Bool) :
    (s.setFlag x b).alt = s.alt := rfl

@[simp] theorem State.setFlag_pc (s : State) (x : Flag) (b : Bool) :
    (s.setFlag x b).pc = s.pc := rfl

@[simp] theorem State.setFlag_status (s : State) (x : Flag) (b : Bool) :
    (s.setFlag x b).status = s.status := rfl

@[simp] theorem State.setFlag_faultRecord (s : State) (x : Flag) (b : Bool) :
    (s.setFlag x b).faultRecord = s.faultRecord := rfl

@[simp] theorem State.setFlag_mem (s : State) (x : Flag) (b : Bool) :
    (s.setFlag x b).mem = s.mem := rfl

@[simp] theorem State.setFlag_flagLayout (s : State) (x : Flag) (b : Bool) :
    (s.setFlag x b).flagLayout = s.flagLayout := rfl

/-! ### `memWrite` -/

@[simp] theorem State.memWrite_main (s : State) (a : Word) (v : Byte) :
    (s.memWrite a v).main = s.main := rfl

@[simp] theorem State.memWrite_alt (s : State) (a : Word) (v : Byte) :
    (s.memWrite a v).alt = s.alt := rfl

@[simp] theorem State.memWrite_pc (s : State) (a : Word) (v : Byte) :
    (s.memWrite a v).pc = s.pc := rfl

@[simp] theorem State.memWrite_status (s : State) (a : Word) (v : Byte) :
    (s.memWrite a v).status = s.status := rfl

@[simp] theorem State.memWrite_faultRecord (s : State) (a : Word) (v : Byte) :
    (s.memWrite a v).faultRecord = s.faultRecord := rfl

@[simp] theorem State.memWrite_mem (s : State) (a : Word) (v : Byte) :
    (s.memWrite a v).mem = s.mem.write a v := rfl

@[simp] theorem State.memWrite_flagLayout (s : State) (a : Word) (v : Byte) :
    (s.memWrite a v).flagLayout = s.flagLayout := rfl

/-! ### `advancePc` -/

@[simp] theorem State.advancePc_main (s : State) (len : Word) :
    (s.advancePc len).main = s.main := rfl

@[simp] theorem State.advancePc_alt (s : State) (len : Word) :
    (s.advancePc len).alt = s.alt := rfl

@[simp] theorem State.advancePc_pc (s : State) (len : Word) :
    (s.advancePc len).pc = s.pc + len := rfl

@[simp] theorem State.advancePc_status (s : State) (len : Word) :
    (s.advancePc len).status = s.status := rfl

@[simp] theorem State.advancePc_faultRecord (s : State) (len : Word) :
    (s.advancePc len).faultRecord = s.faultRecord := rfl

@[simp] theorem State.advancePc_mem (s : State) (len : Word) :
    (s.advancePc len).mem = s.mem := rfl

@[simp] theorem State.advancePc_flagLayout (s : State) (len : Word) :
    (s.advancePc len).flagLayout = s.flagLayout := rfl

/-! ### `withStatus` -/

@[simp] theorem State.withStatus_main (s : State) (st : Status) :
    (s.withStatus st).main = s.main := rfl

@[simp] theorem State.withStatus_alt (s : State) (st : Status) :
    (s.withStatus st).alt = s.alt := rfl

@[simp] theorem State.withStatus_pc (s : State) (st : Status) :
    (s.withStatus st).pc = s.pc := rfl

@[simp] theorem State.withStatus_status (s : State) (st : Status) :
    (s.withStatus st).status = st := rfl

@[simp] theorem State.withStatus_faultRecord (s : State) (st : Status) :
    (s.withStatus st).faultRecord = s.faultRecord := rfl

@[simp] theorem State.withStatus_mem (s : State) (st : Status) :
    (s.withStatus st).mem = s.mem := rfl

@[simp] theorem State.withStatus_flagLayout (s : State) (st : Status) :
    (s.withStatus st).flagLayout = s.flagLayout := rfl

/-! ### `raiseUnknownOpcode` -/

@[simp] theorem State.raiseUnknownOpcode_main (s : State) (b : Byte) (a : Word) :
    (s.raiseUnknownOpcode b a).main = s.main := rfl

@[simp] theorem State.raiseUnknownOpcode_alt (s : State) (b : Byte) (a : Word) :
    (s.raiseUnknownOpcode b a).alt = s.alt := rfl

@[simp] theorem State.raiseUnknownOpcode_pc (s : State) (b : Byte) (a : Word) :
    (s.raiseUnknownOpcode b a).pc = s.pc := rfl

@[simp] theorem State.raiseUnknownOpcode_status (s : State) (b : Byte) (a : Word) :
    (s.raiseUnknownOpcode b a).status = .faulted := rfl

@[simp] theorem State.raiseUnknownOpcode_faultRecord (s : State) (b : Byte) (a : Word) :
    (s.raiseUnknownOpcode b a).faultRecord = some { kind := .unknownOpcode, opcode := b, addr := a } := rfl

@[simp] theorem State.raiseUnknownOpcode_mem (s : State) (b : Byte) (a : Word) :
    (s.raiseUnknownOpcode b a).mem = s.mem := rfl

@[simp] theorem State.raiseUnknownOpcode_flagLayout (s : State) (b : Byte) (a : Word) :
    (s.raiseUnknownOpcode b a).flagLayout = s.flagLayout := rfl

/-! ### `placeAtPc` -/

@[simp] theorem State.placeAtPc_main (s : State) (bytes : List Byte) :
    (s.placeAtPc bytes).main = s.main := rfl

@[simp] theorem State.placeAtPc_alt (s : State) (bytes : List Byte) :
    (s.placeAtPc bytes).alt = s.alt := rfl

@[simp] theorem State.placeAtPc_pc (s : State) (bytes : List Byte) :
    (s.placeAtPc bytes).pc = s.pc := rfl

@[simp] theorem State.placeAtPc_status (s : State) (bytes : List Byte) :
    (s.placeAtPc bytes).status = .fetching := rfl

@[simp] theorem State.placeAtPc_faultRecord (s : State) (bytes : List Byte) :
    (s.placeAtPc bytes).faultRecord = none := rfl

@[simp] theorem State.placeAtPc_mem (s : State) (bytes : List Byte) :
    (s.placeAtPc bytes).mem = s.mem.writeBytes s.pc bytes := rfl

@[simp] theorem State.placeAtPc_flagLayout (s : State) (bytes : List Byte) :
    (s.placeAtPc bytes).flagLayout = s.flagLayout := rfl

/-! ### `startRun` -/

@[simp] theorem State.startRun_main (s : State) (start : Word) :
    (s.startRun start).main = s.main := rfl

@[simp] theorem State.startRun_alt (s : State) (start : Word) :
    (s.startRun start).alt = s.alt := rfl

@[simp] theorem State.startRun_pc (s : State) (start : Word) :
    (s.startRun start).pc = start := rfl

@[simp] theorem State.startRun_status (s : State) (start : Word) :
    (s.startRun start).status = .fetching := rfl

@[simp] theorem State.startRun_faultRecord (s : State) (start : Word) :
    (s.startRun start).faultRecord = s.faultRecord := rfl

@[simp] theorem State.startRun_mem (s : State) (start : Word) :
    (s.startRun start).mem = s.mem := rfl

@[simp] theorem State.startRun_flagLayout (s : State) (start : Word) :
    (s.startRun start).flagLayout = s.flagLayout := rfl

/-! ### `copyByte` -/

@[simp] theorem copyByte_main (s : State) :
    (copyByte s).main = { s.main with hl := s.main.hl + 1, de := s.main.de + 1, bc := s.main.bc - 1 } := rfl

@[simp] theorem copyByte_alt (s : State) :
    (copyByte s).alt = s.alt := rfl

@[simp] theorem copyByte_pc (s : State) :
    (copyByte s).pc = s.pc := rfl

@[simp] theorem copyByte_status (s : State) :
    (copyByte s).status = s.status := rfl

@[simp] theorem copyByte_faultRecord (s : State) :
    (copyByte s).faultRecord = s.faultRecord := rfl

@[simp] theorem copyByte_mem (s : State) :
    (copyByte s).mem = s.mem.write s.main.de (s.mem.read s.main.hl) := rfl

@[simp] theorem copyByte_flagLayout (s : State) :
    (copyByte s).flagLayout = s.flagLayout := rfl

/-! ### Updates by cases: `writeDest16`, `rejectOpcode`, `beginDispatch`, `endDispatch` -/

@[simp] theorem State.writeDest16_alt (s : State) (d : Dest16) (v : Word) :
    (s.writeDest16 d v).alt = s.alt := by cases d <;> rfl

@[simp] theorem State.writeDest16_pc (s : State) (d : Dest16) (v : Word) :
    (s.writeDest16 d v).pc = s.pc := by cases d <;> rfl

@[simp] theorem State.writeDest16_status (s : State) (d : Dest16) (v : Word) :
    (s.writeDest16 d v).status = s.status := by cases d <;> rfl

@[simp] theorem State.writeDest16_faultRecord (s : State) (d : Dest16) (v : Word) :
    (s.writeDest16 d v).faultRecord = s.faultRecord := by cases d <;> rfl

@[simp] theorem State.writeDest16_mem (s : State) (d : Dest16) (v : Word) :
    (s.writeDest16 d v).mem = s.mem := by cases d <;> rfl

@[simp] theorem State.writeDest16_flagLayout (s : State) (d : Dest16) (v : Word) :
    (s.writeDest16 d v).flagLayout = s.flagLayout := by cases d <;> rfl

@[simp] theorem State.rejectOpcode_main (s : State) (u : UnknownOpcode) :
    (s.rejectOpcode u).main = s.main := by cases u <;> rfl

@[simp] theorem State.rejectOpcode_alt (s : State) (u : UnknownOpcode) :
    (s.rejectOpcode u).alt = s.alt := by cases u <;> rfl

@[simp] theorem State.rejectOpcode_pc (s : State) (u : UnknownOpcode) :
    (s.rejectOpcode u).pc = s.pc := by cases u <;> rfl

@[simp] theorem State.rejectOpcode_mem (s : State) (u : UnknownOpcode) :
    (s.rejectOpcode u).mem = s.mem := by cases u <;> rfl

@[simp] theorem State.rejectOpcode_flagLayout (s : State) (u : UnknownOpcode) :
    (s.rejectOpcode u).flagLayout = s.flagLayout := by cases u <;> rfl

@[simp] theorem State.rejectOpcode_status (s : State) (u : UnknownOpcode) :
    (s.rejectOpcode u).status = .faulted := by cases u <;> rfl

@[simp] theorem State.beginDispatch_main (s : State) (i : Instr) :
    (s.beginDispatch i).main = s.main := by cases i <;> rfl

@[simp] theorem State.endDispatch_main (s : State) : s.endDispatch.main = s.main := by
  unfold State.endDispatch; split <;> rfl

@[simp] theorem State.beginDispatch_alt (s : State) (i : Instr) :
    (s.beginDispatch i).alt = s.alt := by cases i <;> rfl

@[simp] theorem State.endDispatch_alt (s : State) : s.endDispatch.alt = s.alt := by
  unfold State.endDispatch; split <;> rfl

@[simp] theorem State.beginDispatch_pc (s : State) (i : Instr) :
    (s.beginDispatch i).pc = s.pc := by cases i <;> rfl

@[simp] theorem State.endDispatch_pc (s : State) : s.endDispatch.pc = s.pc := by
  unfold State.endDispatch; split <;> rfl

@[simp] theorem State.beginDispatch_faultRecord (s : State) (i : Instr) :
    (s.beginDispatch i).faultRecord = s.faultRecord := by cases i <;> rfl

@[simp] theorem State.endDispatch_faultRecord (s : State) : s.endDispatch.faultRecord = s.faultRecord := by
  unfold State.endDispatch; split <;> rfl

@[simp] theorem State.beginDispatch_mem (s : State) (i : Instr) :
    (s.beginDispatch i).mem = s.mem := by cases i <;> rfl

@[simp] theorem State.endDispatch_mem (s : State) : s.endDispatch.mem = s.mem := by
  unfold State.endDispatch; split <;> rfl

@[simp] theorem State.beginDispatch_flagLayout (s : State) (i : Instr) :
    (s.beginDispatch i).flagLayout = s.flagLayout := by cases i <;> rfl

@[simp] theorem State.endDispatch_flagLayout (s : State) : s.endDispatch.flagLayout = s.flagLayout := by
  unfold State.endDispatch; split <;> rfl

/-! ### Register sets -/

@[simp] theorem RegisterSet.setPair_BC_bc (g : RegisterSet) (v : Word) :
    (g.setPair .BC v).bc = v := rfl

@[simp] theorem RegisterSet.setPair_BC_de (g : RegisterSet) (v : Word) :
    (g.setPair .BC v).de = g.de := rfl

@[simp] theorem RegisterSet.setPair_BC_hl (g : RegisterSet) (v : Word) :
    (g.setPair .BC v).hl = g.hl := rfl

@[simp] theorem RegisterSet.setPair_BC_af (g : RegisterSet) (v : Word) :
    (g.setPair .BC v).af = g.af := rfl

@[simp] theorem RegisterSet.setPair_BC_sp (g : RegisterSet) (v : Word) :
    (g.setPair .BC v).sp = g.sp := rfl

@[simp] theorem RegisterSet.setPair_BC_idx (g : RegisterSet) (v : Word) :
    (g.setPair .BC v).idx = g.idx := rfl

@[simp] theorem RegisterSet.setPair_DE_bc (g : RegisterSet) (v : Word) :
    (g.setPair .DE v).bc = g.bc := rfl

@[simp] theorem RegisterSet.setPair_DE_de (g : RegisterSet) (v : Word) :
    (g.setPair .DE v).de = v := rfl

@[simp] theorem RegisterSet.setPair_DE_hl (g : RegisterSet) (v : Word) :
    (g.setPair .DE v).hl = g.hl := rfl

@[simp] theorem RegisterSet.setPair_DE_af (g : RegisterSet) (v : Word) :
    (g.setPair .DE v).af = g.af := rfl

@[simp] theorem RegisterSet.setPair_DE_sp (g : RegisterSet) (v : Word) :
    (g.setPair .DE v).sp = g.sp := rfl

@[simp] theorem RegisterSet.setPair_DE_idx (g : RegisterSet) (v : Word) :
    (g.setPair .DE v).idx = g.idx := rfl

@[simp] theorem RegisterSet.setPair_HL_bc (g : RegisterSet) (v : Word) :
    (g.setPair .HL v).bc = g.bc := rfl

@[simp] theorem RegisterSet.setPair_HL_de (g : RegisterSet) (v : Word) :
    (g.setPair .HL v).de = g.de := rfl

@[simp] theorem RegisterSet.setPair_HL_hl (g : RegisterSet) (v : Word) :
    (g.setPair .HL v).hl = v := rfl

@[simp] theorem RegisterSet.setPair_HL_af (g : RegisterSet) (v : Word) :
    (g.setPair .HL v).af = g.af := rfl

@[simp] theorem RegisterSet.setPair_HL_sp (g : RegisterSet) (v : Word) :
    (g.setPair .HL v).sp = g.sp := rfl

@[simp] theorem RegisterSet.setPair_HL_idx (g : RegisterSet) (v : Word) :
    (g.setPair .HL v).idx = g.idx := rfl

@[simp] theorem RegisterSet.setPair_AF_bc (g : RegisterSet) (v : Word) :
    (g.setPair .AF v).bc = g.bc := rfl

@[simp] theorem RegisterSet.setPair_AF_de (g : RegisterSet) (v : Word) :
    (g.setPair .AF v).de = g.de := rfl

@[simp] theorem RegisterSet.setPair_AF_hl (g : RegisterSet) (v : Word) :
    (g.setPair .AF v).hl = g.hl := rfl

@[simp] theorem RegisterSet.setPair_AF_af (g : RegisterSet) (v : Word) :
    (g.setPair .AF v).af = v := rfl

@[simp] theorem RegisterSet.setPair_AF_sp (g : RegisterSet) (v : Word) :
    (g.setPair .AF v).sp = g.sp := rfl

@[simp] theorem RegisterSet.setPair_AF_idx (g : RegisterSet) (v : Word) :
    (g.setPair .AF v).idx = g.idx := rfl

@[simp] theorem RegisterSet.setPair_sp (g : RegisterSet) (p : Pair) (v : Word) :
    (g.setPair p v).sp = g.sp := by cases p <;> rfl

@[simp] theorem RegisterSet.setHalf_sp (g : RegisterSet) (x : Half) (b : Byte) :
    (g.setHalf x b).sp = g.sp := by cases x <;> rfl

@[simp] theorem RegisterSet.setPair_idx (g : RegisterSet) (p : Pair) (v : Word) :
    (g.setPair p v).idx = g.idx := by cases p <;> rfl

@[simp] theorem RegisterSet.setHalf_idx (g : RegisterSet) (x : Half) (b : Byte) :
    (g.setHalf x b).idx = g.idx := by cases x <;> rfl

end Sys2Proof.Machine
end

