-- ==== Sys2Proof/Laws/BlockCopy.lean ====
section
/-! SUPPORT. The block copy's loop (45_block_copy.md R99 to R101): it is `copyByte` repeated as often as
the counter says, and what that leaves in the registers and in memory's form. -/

namespace Sys2Proof.Machine

/-! ### Repeated iterations -/

@[simp] theorem iterate_copyByte_alt (n : Nat) (s : State) : (copyByte^[n] s).alt = s.alt := by
  induction n generalizing s with
  | zero => rfl
  | succ n ih => rw [Function.iterate_succ_apply, ih]; rfl

@[simp] theorem iterate_copyByte_pc (n : Nat) (s : State) : (copyByte^[n] s).pc = s.pc := by
  induction n generalizing s with
  | zero => rfl
  | succ n ih => rw [Function.iterate_succ_apply, ih]; rfl

@[simp] theorem iterate_copyByte_status (n : Nat) (s : State) :
    (copyByte^[n] s).status = s.status := by
  induction n generalizing s with
  | zero => rfl
  | succ n ih => rw [Function.iterate_succ_apply, ih]; rfl

@[simp] theorem iterate_copyByte_faultRecord (n : Nat) (s : State) :
    (copyByte^[n] s).faultRecord = s.faultRecord := by
  induction n generalizing s with
  | zero => rfl
  | succ n ih => rw [Function.iterate_succ_apply, ih]; rfl

@[simp] theorem iterate_copyByte_flagLayout (n : Nat) (s : State) :
    (copyByte^[n] s).flagLayout = s.flagLayout := by
  induction n generalizing s with
  | zero => rfl
  | succ n ih => rw [Function.iterate_succ_apply, ih]; rfl

/-- R101: the registers after `n` iterations. -/
theorem iterate_copyByte_main (n : Nat) (s : State) :
    (copyByte^[n] s).main =
      { s.main with
        hl := s.main.hl + BitVec.ofNat 16 n
        de := s.main.de + BitVec.ofNat 16 n
        bc := s.main.bc - BitVec.ofNat 16 n } := by
  induction n with
  | zero => simp
  | succ n ih =>
    rw [Function.iterate_succ_apply', copyByte_main, ih]
    simp only [BitVec.ofNat_add, RegisterSet.mk.injEq, and_true]
    refine ⟨?_, ?_, ?_⟩ <;> bv_omega

theorem wf_iterate_copyByte (n : Nat) {s : State} (h : s.mem.wf = true) :
    (copyByte^[n] s).mem.wf = true := by
  induction n with
  | zero => exact h
  | succ n ih =>
    rw [Function.iterate_succ_apply', copyByte_mem]
    exact Memory.wf_write ih _ _

/-! ### The loop -/

theorem copyCount_pos (c : Word) : 0 < copyCount c := by
  unfold copyCount
  split
  · omega
  · next h =>
    have : c.toNat ≠ 0 := fun h' => h (BitVec.eq_of_toNat_eq h')
    omega

theorem copyCount_le (c : Word) : copyCount c ≤ 65536 := by
  unfold copyCount
  split
  · exact Nat.le_refl _
  · exact Nat.le_of_lt c.isLt

/-- The count in two's complement is the counter. -/
theorem ofNat_copyCount (c : Word) : BitVec.ofNat 16 (copyCount c) = c := by
  unfold copyCount
  split
  · next h => rw [h]; rfl
  · simp

/-- Away from the last iteration the count goes down by one. -/
theorem copyCount_pred {c : Word} (h : c - 1 ≠ 0) : copyCount c = copyCount (c - 1) + 1 := by
  unfold copyCount
  rw [if_neg h]
  split
  · next hc => subst hc; rfl
  · next hc =>
    have : c.toNat ≠ 0 := fun h' => hc (BitVec.eq_of_toNat_eq h')
    bv_omega

theorem copyCount_last {c : Word} (h : c - 1 = 0) : copyCount c = 1 := by
  have : c = 1 := by bv_omega
  subst this
  rfl

/-- R101: the loop is `copyByte` repeated `copyCount` times. -/
theorem copyLoop_eq_iterate (fuel : Nat) (s : State) (h : copyCount s.main.bc ≤ fuel) :
    copyLoop fuel s = copyByte^[copyCount s.main.bc] s := by
  induction fuel generalizing s with
  | zero => have := copyCount_pos s.main.bc; omega
  | succ fuel ih =>
    unfold copyLoop
    have hbc : (copyByte s).main.bc = s.main.bc - 1 := rfl
    split
    · next h0 => rw [copyCount_last (hbc ▸ h0)]; rfl
    · next h0 =>
      have hc := copyCount_pred (hbc ▸ h0)
      rw [ih _ (by rw [hbc]; omega), hc, hbc, Function.iterate_succ_apply]

theorem blockCopy_eq_iterate (s : State) :
    blockCopy s = copyByte^[copyCount s.main.bc] s :=
  copyLoop_eq_iterate _ s (copyCount_le _)

@[simp] theorem blockCopy_alt (s : State) : (blockCopy s).alt = s.alt := by
  rw [blockCopy_eq_iterate]; simp

@[simp] theorem blockCopy_pc (s : State) : (blockCopy s).pc = s.pc := by
  rw [blockCopy_eq_iterate]; simp

@[simp] theorem blockCopy_status (s : State) : (blockCopy s).status = s.status := by
  rw [blockCopy_eq_iterate]; simp

@[simp] theorem blockCopy_faultRecord (s : State) : (blockCopy s).faultRecord = s.faultRecord := by
  rw [blockCopy_eq_iterate]; simp

@[simp] theorem blockCopy_flagLayout (s : State) : (blockCopy s).flagLayout = s.flagLayout := by
  rw [blockCopy_eq_iterate]; simp

/-- R101: the registers on exit. -/
theorem blockCopy_main (s : State) :
    (blockCopy s).main =
      { s.main with hl := s.main.hl + s.main.bc, de := s.main.de + s.main.bc, bc := 0 } := by
  rw [blockCopy_eq_iterate, iterate_copyByte_main, ofNat_copyCount, BitVec.sub_self]
  rfl

theorem wf_blockCopy {s : State} (h : s.mem.wf = true) : (blockCopy s).mem.wf = true := by
  rw [blockCopy_eq_iterate]
  exact wf_iterate_copyByte _ h

end Sys2Proof.Machine
end

