-- ==== Sys2Proof/Laws/PerInstr.lean ====
section
/-! SUPPORT. What is proved for each instruction as syntax: the family `FormTable`, that the form the
encoder gives an instruction (30_encoding.md R46, R51) is well formed and is read back as that
instruction. -/

namespace Sys2Proof.Laws.FormTable

/-- The form of `i` passes the checks of R46 and the register tables of R14 and R48 read it back. -/
def Statement (i : Instr) : Prop := i.form.wf = true ∧ Instr.ofForm i.form = some i

theorem ldBC_nn (nn : Word) : Statement (.ldBC_nn nn) := ⟨rfl, rfl⟩
theorem ldDE_nn (nn : Word) : Statement (.ldDE_nn nn) := ⟨rfl, rfl⟩
theorem ldHL_nn (nn : Word) : Statement (.ldHL_nn nn) := ⟨rfl, rfl⟩
theorem ldSP_nn (nn : Word) : Statement (.ldSP_nn nn) := ⟨rfl, rfl⟩
theorem ldB_n (n : Byte) : Statement (.ldB_n n) := ⟨rfl, rfl⟩
theorem ldC_n (n : Byte) : Statement (.ldC_n n) := ⟨rfl, rfl⟩
theorem ldD_n (n : Byte) : Statement (.ldD_n n) := ⟨rfl, rfl⟩
theorem ldE_n (n : Byte) : Statement (.ldE_n n) := ⟨rfl, rfl⟩
theorem ldH_n (n : Byte) : Statement (.ldH_n n) := ⟨rfl, rfl⟩
theorem ldL_n (n : Byte) : Statement (.ldL_n n) := ⟨rfl, rfl⟩
theorem ldA_n (n : Byte) : Statement (.ldA_n n) := ⟨rfl, rfl⟩
theorem ldB_B : Statement (.ldB_B) := ⟨rfl, rfl⟩
theorem ldB_C : Statement (.ldB_C) := ⟨rfl, rfl⟩
theorem ldB_D : Statement (.ldB_D) := ⟨rfl, rfl⟩
theorem ldB_E : Statement (.ldB_E) := ⟨rfl, rfl⟩
theorem ldB_H : Statement (.ldB_H) := ⟨rfl, rfl⟩
theorem ldB_L : Statement (.ldB_L) := ⟨rfl, rfl⟩
theorem ldB_A : Statement (.ldB_A) := ⟨rfl, rfl⟩
theorem ldC_B : Statement (.ldC_B) := ⟨rfl, rfl⟩
theorem ldC_C : Statement (.ldC_C) := ⟨rfl, rfl⟩
theorem ldC_D : Statement (.ldC_D) := ⟨rfl, rfl⟩
theorem ldC_E : Statement (.ldC_E) := ⟨rfl, rfl⟩
theorem ldC_H : Statement (.ldC_H) := ⟨rfl, rfl⟩
theorem ldC_L : Statement (.ldC_L) := ⟨rfl, rfl⟩
theorem ldC_A : Statement (.ldC_A) := ⟨rfl, rfl⟩
theorem ldD_B : Statement (.ldD_B) := ⟨rfl, rfl⟩
theorem ldD_C : Statement (.ldD_C) := ⟨rfl, rfl⟩
theorem ldD_D : Statement (.ldD_D) := ⟨rfl, rfl⟩
theorem ldD_E : Statement (.ldD_E) := ⟨rfl, rfl⟩
theorem ldD_H : Statement (.ldD_H) := ⟨rfl, rfl⟩
theorem ldD_L : Statement (.ldD_L) := ⟨rfl, rfl⟩
theorem ldD_A : Statement (.ldD_A) := ⟨rfl, rfl⟩
theorem ldE_B : Statement (.ldE_B) := ⟨rfl, rfl⟩
theorem ldE_C : Statement (.ldE_C) := ⟨rfl, rfl⟩
theorem ldE_D : Statement (.ldE_D) := ⟨rfl, rfl⟩
theorem ldE_E : Statement (.ldE_E) := ⟨rfl, rfl⟩
theorem ldE_H : Statement (.ldE_H) := ⟨rfl, rfl⟩
theorem ldE_L : Statement (.ldE_L) := ⟨rfl, rfl⟩
theorem ldE_A : Statement (.ldE_A) := ⟨rfl, rfl⟩
theorem ldH_B : Statement (.ldH_B) := ⟨rfl, rfl⟩
theorem ldH_C : Statement (.ldH_C) := ⟨rfl, rfl⟩
theorem ldH_D : Statement (.ldH_D) := ⟨rfl, rfl⟩
theorem ldH_E : Statement (.ldH_E) := ⟨rfl, rfl⟩
theorem ldH_H : Statement (.ldH_H) := ⟨rfl, rfl⟩
theorem ldH_L : Statement (.ldH_L) := ⟨rfl, rfl⟩
theorem ldH_A : Statement (.ldH_A) := ⟨rfl, rfl⟩
theorem ldL_B : Statement (.ldL_B) := ⟨rfl, rfl⟩
theorem ldL_C : Statement (.ldL_C) := ⟨rfl, rfl⟩
theorem ldL_D : Statement (.ldL_D) := ⟨rfl, rfl⟩
theorem ldL_E : Statement (.ldL_E) := ⟨rfl, rfl⟩
theorem ldL_H : Statement (.ldL_H) := ⟨rfl, rfl⟩
theorem ldL_L : Statement (.ldL_L) := ⟨rfl, rfl⟩
theorem ldL_A : Statement (.ldL_A) := ⟨rfl, rfl⟩
theorem ldA_B : Statement (.ldA_B) := ⟨rfl, rfl⟩
theorem ldA_C : Statement (.ldA_C) := ⟨rfl, rfl⟩
theorem ldA_D : Statement (.ldA_D) := ⟨rfl, rfl⟩
theorem ldA_E : Statement (.ldA_E) := ⟨rfl, rfl⟩
theorem ldA_H : Statement (.ldA_H) := ⟨rfl, rfl⟩
theorem ldA_L : Statement (.ldA_L) := ⟨rfl, rfl⟩
theorem ldA_A : Statement (.ldA_A) := ⟨rfl, rfl⟩
theorem ldB_atHL : Statement (.ldB_atHL) := ⟨rfl, rfl⟩
theorem ldC_atHL : Statement (.ldC_atHL) := ⟨rfl, rfl⟩
theorem ldD_atHL : Statement (.ldD_atHL) := ⟨rfl, rfl⟩
theorem ldE_atHL : Statement (.ldE_atHL) := ⟨rfl, rfl⟩
theorem ldH_atHL : Statement (.ldH_atHL) := ⟨rfl, rfl⟩
theorem ldL_atHL : Statement (.ldL_atHL) := ⟨rfl, rfl⟩
theorem ldA_atHL : Statement (.ldA_atHL) := ⟨rfl, rfl⟩
theorem ldir : Statement (.ldir) := ⟨rfl, rfl⟩
theorem halt : Statement (.halt) := ⟨rfl, rfl⟩

/-- Every instruction is well formed and is the one its form names. -/
theorem all (i : Instr) : Statement i := by
  cases i <;> exact ⟨rfl, rfl⟩

end Sys2Proof.Laws.FormTable
end

