-- ==== Sys2Proof/Laws/Decode.lean ====
section
/-! SUPPORT. The register tables and the classes of instructions (10_state.md R14, 30_encoding.md R46 to
R52): the tables invert each other, every instruction is in one of the six classes, and the decoder
goes through the form of the bytes. -/

namespace Sys2Proof

@[simp] theorem Reg8.ofIndex_index (r : Reg8) : Reg8.ofIndex r.index = some r := by cases r <;> rfl

@[simp] theorem Dest16.ofSelector_selector (d : Dest16) : Dest16.ofSelector d.selector = d := by
  cases d <;> rfl

/-- R14: exactly the reserved index names no register. -/
theorem Reg8.ofIndex_eq_none {i : BitVec 3} : Reg8.ofIndex i = none ↔ i = reservedIndex := by
  revert i; decide

/-- R14: a register's index is the one that names it. -/
theorem Reg8.index_of_ofIndex {i : BitVec 3} {r : Reg8} (h : Reg8.ofIndex i = some r) :
    r.index = i := by
  revert i; cases r <;> decide

/-- R48: a destination's selector is the one that names it. -/
theorem Dest16.selector_ofSelector (dd : BitVec 2) : (Dest16.ofSelector dd).selector = dd := by
  revert dd; decide

@[simp] theorem Instr.form_load16 (d : Dest16) (nn : Word) :
    (Instr.load16 d nn).form = .dd d.selector nn := by cases d <;> rfl

@[simp] theorem Instr.form_load8 (r : Reg8) (n : Byte) :
    (Instr.load8 r n).form = .ri r.index n := by cases r <;> rfl

@[simp] theorem Instr.form_transfer (r r' : Reg8) :
    (Instr.transfer r r').form = .rr r.index r'.index := by cases r <;> cases r' <;> rfl

@[simp] theorem Instr.form_loadAtHL (r : Reg8) :
    (Instr.loadAtHL r).form = .rm r.index := by cases r <;> rfl

/-- R51: every instruction belongs to one of the six classes. -/
theorem Instr.class_cases (i : Instr) :
    (∃ d nn, i = .load16 d nn) ∨ (∃ r n, i = .load8 r n) ∨ (∃ r r', i = .transfer r r') ∨
      (∃ r, i = .loadAtHL r) ∨ i = .ldir ∨ i = .halt := by
  cases h : i.form with
  | dd sel nn =>
    have := (Laws.FormTable.all i).2
    rw [h] at this
    exact .inl ⟨_, _, (Option.some.inj this).symm⟩
  | ri rrr n =>
    have := (Laws.FormTable.all i).2
    rw [h] at this
    obtain ⟨r, -, hr⟩ := Option.map_eq_some_iff.1 this
    exact .inr (.inl ⟨r, n, hr.symm⟩)
  | rr ddd sss =>
    have := (Laws.FormTable.all i).2
    rw [h, Instr.ofForm] at this
    split at this
    · exact .inr (.inr (.inl ⟨_, _, (Option.some.inj this).symm⟩))
    · exact absurd this (by simp)
  | rm ddd =>
    have := (Laws.FormTable.all i).2
    rw [h] at this
    obtain ⟨r, -, hr⟩ := Option.map_eq_some_iff.1 this
    exact .inr (.inr (.inr (.inl ⟨r, hr.symm⟩)))
  | ed op2 =>
    have := (Laws.FormTable.all i).2
    rw [h, Instr.ofForm] at this
    split at this
    · exact .inr (.inr (.inr (.inr (.inl (Option.some.inj this).symm))))
    · exact absurd this (by simp)
  | hlt =>
    have := (Laws.FormTable.all i).2
    rw [h] at this
    exact .inr (.inr (.inr (.inr (.inr (Option.some.inj this).symm))))

/-- R52: a decoded instruction is the one its bytes' form names. -/
theorem decodeBytes_ok {op b1 b2 : Byte} {i : Instr} (h : decodeBytes op b1 b2 = .ok i) :
    ∃ f, Form.ofBytes op b1 b2 = some f ∧ Instr.ofForm f = some i := by
  unfold decodeBytes at h
  split at h
  · exact absurd h (by simp)
  · next f hf =>
    split at h
    · next j hj => exact ⟨f, hf, by rw [hj, Except.ok.inj h]⟩
    · exact absurd h (by simp)

/-- R52: the form of an instruction is what the register tables read it from. -/
theorem Instr.form_of_ofForm {f : Form} {i : Instr} (h : Instr.ofForm f = some i) : i.form = f := by
  cases f with
  | dd sel nn =>
    obtain rfl := Option.some.inj h
    rw [Instr.form_load16, Dest16.selector_ofSelector]
  | ri rrr n =>
    obtain ⟨r, hr, rfl⟩ := Option.map_eq_some_iff.1 h
    rw [Instr.form_load8, Reg8.index_of_ofIndex hr]
  | rr ddd sss =>
    rw [Instr.ofForm] at h
    split at h
    · next r r' hr hr' =>
      obtain rfl := Option.some.inj h
      rw [Instr.form_transfer, Reg8.index_of_ofIndex hr, Reg8.index_of_ofIndex hr']
    · exact absurd h (by simp)
  | rm ddd =>
    obtain ⟨r, hr, rfl⟩ := Option.map_eq_some_iff.1 h
    rw [Instr.form_loadAtHL, Reg8.index_of_ofIndex hr]
  | ed op2 =>
    rw [Instr.ofForm] at h
    split at h
    · next hb => obtain rfl := Option.some.inj h; rw [hb]; rfl
    · exact absurd h (by simp)
  | hlt => obtain rfl := Option.some.inj h; rfl

end Sys2Proof
end

