-- ==== Sys2Proof/Laws/Exec.lean ====
section
/-! SUPPORT. What dispatch and the step can do, said once (40_sequencer.md R60, R61, R64): `exec` by
class of instruction, and the inversion of `exec` and `step`. -/

namespace Sys2Proof.Machine

variable {s t : State} {i : Instr}

/-! ### Dispatch, class by class -/

theorem exec_load16 (d : Dest16) (nn : Word) (s : State) :
    exec (.load16 d nn) s = .next ((s.writeDest16 d nn).advancePc 3) := by cases d <;> rfl

theorem exec_load8 (r : Reg8) (n : Byte) (s : State) :
    exec (.load8 r n) s = .next ((s.writeR8 r n).advancePc 2) := by cases r <;> rfl

theorem exec_transfer (r r' : Reg8) (s : State) :
    exec (.transfer r r') s = .next ((s.writeR8 r (s.readR8 r')).advancePc 1) := by
  cases r <;> cases r' <;> rfl

theorem exec_loadAtHL (r : Reg8) (s : State) :
    exec (.loadAtHL r) s = .next ((s.writeR8 r (s.memRead s.pointer)).advancePc 1) := by
  cases r <;> rfl

theorem exec_ldir (s : State) :
    exec .ldir s = .next (((blockCopy s).setFlag .H false).advancePc 2) := rfl

theorem exec_halt (s : State) : exec .halt s = .next (s.withStatus .halted) := rfl

/-- Everything `exec` can do: the inversion lemma that claims about instructions start from. -/
theorem exec_cases (h : exec i s = .next t) :
    (∃ d nn, i = .load16 d nn ∧ t = (s.writeDest16 d nn).advancePc 3) ∨
    (∃ r n, i = .load8 r n ∧ t = (s.writeR8 r n).advancePc 2) ∨
    (∃ r r', i = .transfer r r' ∧ t = (s.writeR8 r (s.readR8 r')).advancePc 1) ∨
    (∃ r, i = .loadAtHL r ∧ t = (s.writeR8 r (s.memRead s.pointer)).advancePc 1) ∨
    (i = .ldir ∧ t = ((blockCopy s).setFlag .H false).advancePc 2) ∨
    (i = .halt ∧ t = s.withStatus .halted) := by
  rcases i.class_cases with ⟨d, nn, rfl⟩ | ⟨r, n, rfl⟩ | ⟨r, r', rfl⟩ | ⟨r, rfl⟩ | rfl | rfl
  · rw [exec_load16] at h
    exact .inl ⟨d, nn, rfl, by cases h; rfl⟩
  · rw [exec_load8] at h
    exact .inr (.inl ⟨r, n, rfl, by cases h; rfl⟩)
  · rw [exec_transfer] at h
    exact .inr (.inr (.inl ⟨r, r', rfl, by cases h; rfl⟩))
  · rw [exec_loadAtHL] at h
    exact .inr (.inr (.inr (.inl ⟨r, rfl, by cases h; rfl⟩)))
  · rw [exec_ldir] at h
    exact .inr (.inr (.inr (.inr (.inl ⟨rfl, by cases h; rfl⟩))))
  · rw [exec_halt] at h
    exact .inr (.inr (.inr (.inr (.inr ⟨rfl, by cases h; rfl⟩))))

/-! ### The step -/

theorem beginDispatch_of_ne_halt (hi : i ≠ .halt) (s : State) :
    s.beginDispatch i = s.withStatus .dispatching := by
  cases i <;> first | rfl | exact absurd rfl hi

/-- A step that answers a next state took place in Fetching, and rejected or dispatched. -/
theorem step_cases (h : step s = .next t) :
    s.status = .fetching ∧
      ((∃ u, s.fetchInstr = .error u ∧ t = s.rejectOpcode u) ∨
        ∃ i t', s.fetchInstr = .ok i ∧ exec i (s.beginDispatch i) = .next t' ∧
          t = t'.endDispatch) := by
  unfold step at h
  cases hs : s.status <;> rw [hs] at h <;> simp only [reduceCtorEq] at h
  refine ⟨rfl, ?_⟩
  cases hf : s.fetchInstr with
  | error u =>
    rw [hf] at h
    exact .inl ⟨u, rfl, by cases h; rfl⟩
  | ok i =>
    rw [hf] at h
    simp only [dispatch] at h
    cases he : exec i (s.beginDispatch i) with
    | next t' =>
      rw [he] at h
      exact .inr ⟨i, t', rfl, he, by cases h; rfl⟩
    | fault r => rw [he] at h; exact absurd h (by simp)
    | refused r => rw [he] at h; exact absurd h (by simp)

end Sys2Proof.Machine
end

