-- ==== Sys2Proof/Tests/Slice0.lean ====
section
/-! SUPPORT. The model's own tests: ill-formed forms, decoding of words written out from the encodings
of 30_encoding.md, single steps with the results of 95_test_vectors.md (the vector's number is in
the docstring), and for each statement with hypotheses a state and operands that meet them. -/

namespace Sys2Proof.Tests

open Sys2Proof.Machine

/-! ### Ill-formed forms (R46, R53, R54) -/

/-- The byte 36: 8-bit immediate load with the reserved index. -/
theorem test_wf_refuses_ri : (Form.ri 0b110 0x05).wf = false := by decide

/-- The bytes 70 to 77: transfer with the reserved index as destination. -/
theorem test_wf_refuses_rr_destination : (Form.rr 0b110 0b000).wf = false := by decide

/-- The reserved index as source of a transfer: those bytes are the indirect loads. -/
theorem test_wf_refuses_rr_source : (Form.rr 0b000 0b110).wf = false := by decide

/-- The byte 76 is the halt, no indirect load. -/
theorem test_wf_refuses_rm : (Form.rm 0b110).wf = false := by decide

/-- `ED 76` is no instruction. -/
theorem test_wf_refuses_ed : (Form.ed 0x76).wf = false := by decide

/-- The checks let the other forms pass. -/
theorem test_wf_accepts :
    (Form.dd 0b11 0xFFFF).wf && (Form.ri 0b111 0xFF).wf && (Form.rr 0b101 0b111).wf &&
      (Form.rm 0b101).wf && (Form.ed 0xB0).wf && Form.hlt.wf = true := by decide

/-! ### Decoding, every constructor, from the bits of R46 and the tables of R14 and R48 -/

/-- R48: `00 dd 0001` with dd = 0 to 3, low byte first. -/
theorem test_decode_load16 :
    decode [0b00000001, 0x34, 0x12] = .ok (.ldBC_nn 0x1234, []) ∧
      decode [0b00010001, 0x34, 0x12] = .ok (.ldDE_nn 0x1234, []) ∧
      decode [0b00100001, 0x34, 0x12] = .ok (.ldHL_nn 0x1234, []) ∧
      decode [0b00110001, 0x34, 0x12] = .ok (.ldSP_nn 0x1234, []) := by
  refine ⟨rfl, rfl, rfl, rfl⟩

/-- R46: `00 rrr 110`, then the immediate; the byte after it is left. -/
theorem test_decode_load8 :
    decode [0b00000110, 0xA5, 0x76] = .ok (.ldB_n 0xA5, [0x76]) ∧
      decode [0b00001110, 0xA5, 0x76] = .ok (.ldC_n 0xA5, [0x76]) ∧
      decode [0b00010110, 0xA5, 0x76] = .ok (.ldD_n 0xA5, [0x76]) ∧
      decode [0b00011110, 0xA5, 0x76] = .ok (.ldE_n 0xA5, [0x76]) ∧
      decode [0b00100110, 0xA5, 0x76] = .ok (.ldH_n 0xA5, [0x76]) ∧
      decode [0b00101110, 0xA5, 0x76] = .ok (.ldL_n 0xA5, [0x76]) ∧
      decode [0b00111110, 0xA5, 0x76] = .ok (.ldA_n 0xA5, [0x76]) := by
  refine ⟨rfl, rfl, rfl, rfl, rfl, rfl, rfl⟩

/-- R46: `01 ddd sss`, ddd naming B. -/
theorem test_decode_transfer_B :
    ([0b01000000, 0b01000001, 0b01000010, 0b01000011, 0b01000100,
        0b01000101, 0b01000111] : List Byte).map (fun b => decode [b]) =
      [.ldB_B, .ldB_C, .ldB_D, .ldB_E, .ldB_H, .ldB_L, .ldB_A].map fun i => .ok (i, []) := rfl

/-- R46: `01 ddd sss`, ddd naming C. -/
theorem test_decode_transfer_C :
    ([0b01001000, 0b01001001, 0b01001010, 0b01001011, 0b01001100,
        0b01001101, 0b01001111] : List Byte).map (fun b => decode [b]) =
      [.ldC_B, .ldC_C, .ldC_D, .ldC_E, .ldC_H, .ldC_L, .ldC_A].map fun i => .ok (i, []) := rfl

/-- R46: `01 ddd sss`, ddd naming D. -/
theorem test_decode_transfer_D :
    ([0b01010000, 0b01010001, 0b01010010, 0b01010011, 0b01010100,
        0b01010101, 0b01010111] : List Byte).map (fun b => decode [b]) =
      [.ldD_B, .ldD_C, .ldD_D, .ldD_E, .ldD_H, .ldD_L, .ldD_A].map fun i => .ok (i, []) := rfl

/-- R46: `01 ddd sss`, ddd naming E. -/
theorem test_decode_transfer_E :
    ([0b01011000, 0b01011001, 0b01011010, 0b01011011, 0b01011100,
        0b01011101, 0b01011111] : List Byte).map (fun b => decode [b]) =
      [.ldE_B, .ldE_C, .ldE_D, .ldE_E, .ldE_H, .ldE_L, .ldE_A].map fun i => .ok (i, []) := rfl

/-- R46: `01 ddd sss`, ddd naming H. -/
theorem test_decode_transfer_H :
    ([0b01100000, 0b01100001, 0b01100010, 0b01100011, 0b01100100,
        0b01100101, 0b01100111] : List Byte).map (fun b => decode [b]) =
      [.ldH_B, .ldH_C, .ldH_D, .ldH_E, .ldH_H, .ldH_L, .ldH_A].map fun i => .ok (i, []) := rfl

/-- R46: `01 ddd sss`, ddd naming L. -/
theorem test_decode_transfer_L :
    ([0b01101000, 0b01101001, 0b01101010, 0b01101011, 0b01101100,
        0b01101101, 0b01101111] : List Byte).map (fun b => decode [b]) =
      [.ldL_B, .ldL_C, .ldL_D, .ldL_E, .ldL_H, .ldL_L, .ldL_A].map fun i => .ok (i, []) := rfl

/-- R46: `01 ddd sss`, ddd naming A. -/
theorem test_decode_transfer_A :
    ([0b01111000, 0b01111001, 0b01111010, 0b01111011, 0b01111100,
        0b01111101, 0b01111111] : List Byte).map (fun b => decode [b]) =
      [.ldA_B, .ldA_C, .ldA_D, .ldA_E, .ldA_H, .ldA_L, .ldA_A].map fun i => .ok (i, []) := rfl

/-- R46: `01 ddd 110`. -/
theorem test_decode_indirect :
    ([0b01000110, 0b01001110, 0b01010110, 0b01011110, 0b01100110,
        0b01101110, 0b01111110] : List Byte).map (fun b => decode [b]) =
      [.ldB_atHL, .ldC_atHL, .ldD_atHL, .ldE_atHL, .ldH_atHL, .ldL_atHL, .ldA_atHL].map
        fun i => .ok (i, []) := rfl

/-- R46, R55: `ED B0` and `76`. -/
theorem test_decode_ldir_halt :
    decode [0b11101101, 0b10110000] = .ok (.ldir, []) ∧ decode [0b01110110] = .ok (.halt, []) :=
  ⟨rfl, rfl⟩

/-- R54: the eight bytes of the reserved index are rejected by name, with any byte after them. -/
theorem test_decode_rejects_reserved_index :
    ([0x36, 0x70, 0x71, 0x72, 0x73, 0x74, 0x75, 0x77] : List Byte).map
        (fun b => decodeBytes b 0x05 0x76) =
      [0x36, 0x70, 0x71, 0x72, 0x73, 0x74, 0x75, 0x77].map fun b => .error (.firstByte b) := rfl

/-- V5.16 to V5.18: what follows ED and is not B0 is rejected by name. -/
theorem test_decode_rejects_after_ED :
    ([0x76, 0xED, 0x00, 0xA0, 0xB1, 0xB8] : List Byte).map (fun b => decode [0xED, b]) =
      [0x76, 0xED, 0x00, 0xA0, 0xB1, 0xB8].map fun b => .error (.unknown (.secondByte b)) := rfl

/-- An instruction cut short is refused. -/
theorem test_decode_truncated :
    decode [0x21, 0x34] = .error .truncated ∧ decode [0xED] = .error .truncated ∧
      decode [0x3E] = .error .truncated := ⟨rfl, rfl, rfl⟩

/-- The words of spec/opcode_table.json, their operand bytes zero; `EDB0` as that row writes it. -/
theorem test_table_words :
    decodeTableWord 24 0x31 = some (.ldSP_nn 0) ∧ decodeTableWord 16 0x3E = some (.ldA_n 0) ∧
      decodeTableWord 16 0xA53E = some (.ldA_n 0xA5) ∧ decodeTableWord 8 0x47 = some .ldB_A ∧
      decodeTableWord 8 0x7E = some .ldA_atHL ∧ decodeTableWord 16 0xEDB0 = some .ldir ∧
      decodeTableWord 8 0x76 = some .halt ∧ decodeTableWord 8 0x36 = none := by decide

/-! ### Single steps -/

/-- The state after a step that answers one. -/
def next? (s : State) : Option State :=
  match step s with
  | .next t => some t
  | .fault _ => none
  | .refused _ => none

/-- The main set of the start state T0 of 95_test_vectors.md. -/
def mainT0 : RegisterSet :=
  { bc := 0x0102, de := 0x0304, hl := 0x0506, af := 0x07D7, sp := 0, idx := 0 }

/-- An engine in Fetching at `pc` with these registers and, at each address listed, these bytes. -/
def running (main : RegisterSet) (pc : Word) (bytes : List (Word × List Byte)) : State :=
  { State.reset with
    main := main, pc := pc, status := .fetching
    mem := bytes.foldl (fun m p => m.writeBytes p.1 p.2) [] }

/-- The start state T0 with these bytes at its program counter 0500. -/
def atT0 (bytes : List Byte) : State := running mainT0 0x0500 [(0x0500, bytes)]

/-- V1.2, V1.4: the pair or SP, `pc`, and nothing else. -/
theorem test_load16 :
    next? (running .reset 0x0500 [(0x0500, [0x11, 0x67, 0x45])]) =
        some { running .reset 0x0503 [(0x0500, [0x11, 0x67, 0x45])] with
          main := { RegisterSet.reset with de := 0x4567 } } ∧
      next? (running .reset 0x0500 [(0x0500, [0x31, 0xFE, 0xFF])]) =
        some { running .reset 0x0503 [(0x0500, [0x31, 0xFE, 0xFF])] with
          main := { RegisterSet.reset with sp := 0xFFFE } } := by decide

/-- V1.7, V1.8: the operand bytes and `pc` wrap. -/
theorem test_load16_wraps :
    (next? (running .reset 0xFFFE [(0xFFFE, [0x21, 0x34, 0x12])])).map
          (fun t => (t.main.hl, t.pc)) =
        some (0x1234, 0x0001) ∧
      (next? (running .reset 0xFFFF [(0xFFFF, [0x01, 0x04, 0x00])])).map
          (fun t => (t.main.bc, t.pc)) =
        some (0x0004, 0x0002) := by decide

/-- V2.1 to V2.7: from T0 with n = A5. -/
theorem test_load8 :
    ∀ p ∈ ([(0x06, { mainT0 with bc := 0xA502 }), (0x0E, { mainT0 with bc := 0x01A5 }),
        (0x16, { mainT0 with de := 0xA504 }), (0x1E, { mainT0 with de := 0x03A5 }),
        (0x26, { mainT0 with hl := 0xA506 }), (0x2E, { mainT0 with hl := 0x05A5 }),
        (0x3E, { mainT0 with af := 0xA5D7 })] : List (Byte × RegisterSet)),
      next? (atT0 [p.1, 0xA5]) = some { atT0 [p.1, 0xA5] with main := p.2, pc := 0x0502 } := by decide

/-- V3, row B: from T0, the one pair that changes. -/
theorem test_transfer_B :
    ([0x40, 0x41, 0x42, 0x43, 0x44, 0x45, 0x47] : List Byte).map (fun b => next? (atT0 [b])) =
      [(0x40, 0x0102), (0x41, 0x0202), (0x42, 0x0302), (0x43, 0x0402),
        (0x44, 0x0502), (0x45, 0x0602), (0x47, 0x0702)].map fun p =>
        some { atT0 [p.1] with main := { mainT0 with bc := p.2 }, pc := 0x0501 } := rfl

/-- V3, row C: from T0, the one pair that changes. -/
theorem test_transfer_C :
    ([0x48, 0x49, 0x4A, 0x4B, 0x4C, 0x4D, 0x4F] : List Byte).map (fun b => next? (atT0 [b])) =
      [(0x48, 0x0101), (0x49, 0x0102), (0x4A, 0x0103), (0x4B, 0x0104),
        (0x4C, 0x0105), (0x4D, 0x0106), (0x4F, 0x0107)].map fun p =>
        some { atT0 [p.1] with main := { mainT0 with bc := p.2 }, pc := 0x0501 } := rfl

/-- V3, row D: from T0, the one pair that changes. -/
theorem test_transfer_D :
    ([0x50, 0x51, 0x52, 0x53, 0x54, 0x55, 0x57] : List Byte).map (fun b => next? (atT0 [b])) =
      [(0x50, 0x0104), (0x51, 0x0204), (0x52, 0x0304), (0x53, 0x0404),
        (0x54, 0x0504), (0x55, 0x0604), (0x57, 0x0704)].map fun p =>
        some { atT0 [p.1] with main := { mainT0 with de := p.2 }, pc := 0x0501 } := rfl

/-- V3, row E: from T0, the one pair that changes. -/
theorem test_transfer_E :
    ([0x58, 0x59, 0x5A, 0x5B, 0x5C, 0x5D, 0x5F] : List Byte).map (fun b => next? (atT0 [b])) =
      [(0x58, 0x0301), (0x59, 0x0302), (0x5A, 0x0303), (0x5B, 0x0304),
        (0x5C, 0x0305), (0x5D, 0x0306), (0x5F, 0x0307)].map fun p =>
        some { atT0 [p.1] with main := { mainT0 with de := p.2 }, pc := 0x0501 } := rfl

/-- V3, row H: from T0, the one pair that changes. -/
theorem test_transfer_H :
    ([0x60, 0x61, 0x62, 0x63, 0x64, 0x65, 0x67] : List Byte).map (fun b => next? (atT0 [b])) =
      [(0x60, 0x0106), (0x61, 0x0206), (0x62, 0x0306), (0x63, 0x0406),
        (0x64, 0x0506), (0x65, 0x0606), (0x67, 0x0706)].map fun p =>
        some { atT0 [p.1] with main := { mainT0 with hl := p.2 }, pc := 0x0501 } := rfl

/-- V3, row L: from T0, the one pair that changes. -/
theorem test_transfer_L :
    ([0x68, 0x69, 0x6A, 0x6B, 0x6C, 0x6D, 0x6F] : List Byte).map (fun b => next? (atT0 [b])) =
      [(0x68, 0x0501), (0x69, 0x0502), (0x6A, 0x0503), (0x6B, 0x0504),
        (0x6C, 0x0505), (0x6D, 0x0506), (0x6F, 0x0507)].map fun p =>
        some { atT0 [p.1] with main := { mainT0 with hl := p.2 }, pc := 0x0501 } := rfl

/-- V3, row A: from T0, the one pair that changes. -/
theorem test_transfer_A :
    ([0x78, 0x79, 0x7A, 0x7B, 0x7C, 0x7D, 0x7F] : List Byte).map (fun b => next? (atT0 [b])) =
      [(0x78, 0x01D7), (0x79, 0x02D7), (0x7A, 0x03D7), (0x7B, 0x04D7),
        (0x7C, 0x05D7), (0x7D, 0x06D7), (0x7F, 0x07D7)].map fun p =>
        some { atT0 [p.1] with main := { mainT0 with af := p.2 }, pc := 0x0501 } := rfl

/-- V3.50, V3.51: a half from the other half of its own pair. -/
theorem test_transfer_within_a_pair :
    (next? (running { mainT0 with hl := 0x1234 } 0x0500 [(0x0500, [0x65])])).map (·.main.hl) =
        some 0x3434 ∧
      (next? (running { mainT0 with hl := 0x1234 } 0x0500 [(0x0500, [0x6C])])).map (·.main.hl) =
        some 0x1212 := by decide

/-- V4.1 to V4.7: from T0 with 5A at 0506. -/
theorem test_indirect :
    ∀ p ∈ ([(0x46, { mainT0 with bc := 0x5A02 }), (0x4E, { mainT0 with bc := 0x015A }),
        (0x56, { mainT0 with de := 0x5A04 }), (0x5E, { mainT0 with de := 0x035A }),
        (0x66, { mainT0 with hl := 0x5A06 }), (0x6E, { mainT0 with hl := 0x055A }),
        (0x7E, { mainT0 with af := 0x5AD7 })] : List (Byte × RegisterSet)),
      next? (running mainT0 0x0500 [(0x0500, [p.1]), (0x0506, [0x5A])]) =
        some { running p.2 0x0501 [(0x0500, [p.1]), (0x0506, [0x5A])] with alt := .reset } := by
  decide

/-- V4.12: the instruction reads its own opcode byte. -/
theorem test_indirect_reads_its_opcode :
    (next? (running { mainT0 with hl := 0x0500 } 0x0500 [(0x0500, [0x7E])])).map
      (·.main.getHalf .A) = some 0x7E := by decide

/-- V5.3: both pointers' ranges wrap or not, each on its own, and AF = 12FF becomes 12EF. -/
theorem test_ldir_wraps :
    next? (running { RegisterSet.reset with hl := 0xFFFF, de := 0x0010, bc := 0x0002, af := 0x12FF }
        0x0500 [(0x0500, [0xED, 0xB0]), (0xFFFF, [0x11, 0x22])]) =
      some (running { RegisterSet.reset with hl := 0x0001, de := 0x0012, bc := 0, af := 0x12EF }
        0x0502 [(0x0500, [0xED, 0xB0]), (0xFFFF, [0x11, 0x22]), (0x0010, [0x11, 0x22])]) := by decide

/-- V5.4: a destination two bytes above the source replicates. -/
theorem test_ldir_overlap :
    next? (running { RegisterSet.reset with hl := 0x3000, de := 0x3002, bc := 0x0005 }
        0x0500 [(0x0500, [0xED, 0xB0]), (0x3000, [1, 2, 3, 4, 5, 6, 7, 8])]) =
      some (running { RegisterSet.reset with hl := 0x3005, de := 0x3007, bc := 0 }
        0x0502 [(0x0500, [0xED, 0xB0]), (0x3000, [1, 2, 1, 2, 1, 2, 1, 8])]) := by decide

/-- V6.1: the halt keeps `pc` and everything but the status. -/
theorem test_halt :
    next? (running .reset 0x0600 [(0x0600, [0x76])]) =
      some { running .reset 0x0600 [(0x0600, [0x76])] with status := .halted } := by decide

/-- V2.8, V5.20: the record of an unrecognized first byte, and of a second one at the wrap. -/
theorem test_unknown_opcode :
    next? (atT0 [0x36, 0x05]) = some { atT0 [0x36, 0x05] with
        status := .faulted, faultRecord := some ⟨.unknownOpcode, 0x36, 0x0500⟩ } ∧
      next? (running .reset 0xFFFF [(0xFFFF, [0xED, 0x76])]) =
        some { running .reset 0xFFFF [(0xFFFF, [0xED, 0x76])] with
          status := .faulted, faultRecord := some ⟨.unknownOpcode, 0x76, 0x0000⟩ } := by decide

/-- `withFetchWord`: the first step after reset runs the table's word, here LD A,A5, LDIR and HALT. -/
theorem test_withFetchWord :
    (next? (State.reset.withFetchWord 16 0xA53E)).map (fun t => (t.main.af, t.pc)) =
        some (0xA500, 0x0002) ∧
      (State.reset.withFetchWord 16 0xEDB0).fetchInstr = .ok .ldir ∧
      (next? (State.reset.withFetchWord 8 0x76)).map (·.status) = some .halted := by
  refine ⟨by decide, rfl, by decide⟩

/-! ### The host's operations -/

/-- V6.7, V6.8: the last load that fits and the first that does not. -/
theorem test_load_boundary :
    (hostLoad 0xFFFC [1, 2, 3, 4] .reset).1 = .ok ∧
      hostLoad 0xFFFD [1, 2, 3, 4] .reset = (.overflow, .reset) := by decide

/-- V6.3, V6.6: a run into the byte 00 faults, and a run in Faulted is refused. -/
theorem test_run_faults :
    let faulted : State := { State.reset with
      pc := 0x0600, status := .faulted, faultRecord := some ⟨.unknownOpcode, 0x00, 0x0600⟩ }
    hostRun 3 0x0600 .reset = (.unknownOpcode 0x00 0x0600, faulted) ∧
      hostRun 3 0x0700 faulted = (.refused, faulted) := by decide

/-! ### States and operands that meet the statements' hypotheses -/

/-- O4: the four pairs with their halves. -/
theorem witness_PairAndHalvesAlias :
    ∀ p ∈ ([(.B, .C), (.D, .E), (.H, .L), (.A, .F)] : List (Half × Half)),
      p.2.pair = p.1.pair ∧ p.1.isHigh = true ∧ p.2.isHigh = false := by decide

/-- A layout of the flags other than the default, legal, with H at bit 3. -/
def otherLayout : FlagLayout := { s := 0, z := 1, h := 3, pv := 5, n := 6, c := 7 }

/-- R20, D3: in another layout LDIR clears that layout's bit of H, from FF to F7 and from 08 to 00; a
layout with two flags at one bit is not legal. -/
theorem test_ldir_other_layout :
    ([0xFF, 0x08] : List Byte).map (fun f =>
        (next? { running { mainT0 with bc := 1, af := joinBytes 0x12 f } 0x0500
            [(0x0500, [0xED, 0xB0])] with flagLayout := otherLayout }).map (·.main.af)) =
      [some 0x12F7, some 0x1200] ∧
    { otherLayout with c := 0 }.wf = false := by decide

/-- O6: another flag than the one written, another bit, and a legal layout. -/
theorem witness_FlagWriteChangesOneBit :
    Flag.C ≠ Flag.H ∧ 15 ≠ State.reset.flagPos .H ∧ State.reset.flagLayout.wf = true := by decide

/-- O7, O24: legal layouts, the default and another. -/
theorem witness_FlagPositionsAreDistinct :
    defaultFlagLayout.wf = true ∧ otherLayout.wf = true ∧ otherLayout ≠ defaultFlagLayout := by
  decide

/-- O8: a canonical memory and an address that is not the one written, at the ends of memory. -/
theorem witness_ReadAfterWriteAtEveryAddress :
    (atT0 [0x76]).mem.wf = true ∧ (0x0000 : Word) ≠ 0xFFFF := by decide

/-- O9: two memories written in different orders, both canonical, that read alike. -/
theorem witness_CanonicalMemoriesReadingAlikeAreEqual :
    (Memory.write (Memory.write [] 0xFFFF 1) 0 2).wf = true ∧
      (Memory.write (Memory.write [] 0 2) 0xFFFF 1).wf = true ∧
      ∀ a : Word, (Memory.write (Memory.write [] 0xFFFF 1) 0 2).read a =
        (Memory.write (Memory.write [] 0 2) 0xFFFF 1).read a :=
  ⟨by decide, by decide, fun _ => rfl⟩

/-- O12: bytes of every length decode. -/
theorem witness_EncodeOfDecodedBytesIsThoseBytes :
    decodeBytes 0x31 0xFE 0xFF = .ok (.ldSP_nn 0xFFFE) ∧ decodeBytes 0xED 0xB0 0x00 = .ok .ldir ∧
      decodeBytes 0x76 0x00 0x00 = .ok .halt := ⟨rfl, rfl, rfl⟩

/-- O13: first bytes other than ED at both sides of the ends of the listed ranges. -/
theorem witness_FirstBytesRejectedAreTheListedOnes :
    (∀ op ∈ ([0x00, 0x02, 0x36, 0x3F, 0x70, 0x75, 0x77, 0x80, 0xEC, 0xEE, 0xFF] : List Byte),
        op ≠ 0xED ∧ unrecognizedFirstByte op = true) ∧
      ∀ op ∈ ([0x01, 0x06, 0x31, 0x3E, 0x40, 0x6F, 0x76, 0x78, 0x7F] : List Byte),
        op ≠ 0xED ∧ unrecognizedFirstByte op = false := by decide

/-- O14: bytes that decode to the block copy, whatever the third one holds. -/
theorem witness_PrefixRecognizesOneInstruction : decodeBytes 0xED 0xB0 0x76 = .ok .ldir := rfl

/-- O15: a byte that fails, one of each load with an immediate and the halt, none of them ED. -/
theorem witness_OperandBytesAreNotDecoded :
    decodeBytes 0x36 0x05 0x76 = .error (.firstByte 0x36) ∧
      decodeBytes 0x3E 0x76 0x00 = .ok (.load8 .A 0x76) ∧
      decodeBytes 0x31 0x76 0xED = .ok (.load16 .SP 0xED76) ∧
      decodeBytes 0x76 0xED 0xB0 = .ok .halt ∧ Instr.length .halt = 1 ∧
      (0x36 : Byte) ≠ 0xED ∧ (0x3E : Byte) ≠ 0xED ∧ (0x31 : Byte) ≠ 0xED ∧
      (0x76 : Byte) ≠ 0xED :=
  ⟨rfl, rfl, rfl, rfl, rfl, by decide, by decide, by decide, by decide⟩

/-- O16: V1.7 and V2.10, immediates across the end of memory. -/
theorem witness_ImmediatesComeFromTheBytesAfterTheOpcode :
    (running .reset 0xFFFE [(0xFFFE, [0x21, 0x34, 0x12])]).fetchInstr = .ok (.load16 .HL 0x1234) ∧
      (running .reset 0xFFFF [(0xFFFF, [0x3E, 0x42])]).fetchInstr = .ok (.load8 .A 0x42) :=
  ⟨rfl, rfl⟩

/-- O17: Fetching at a byte that decodes. -/
theorem witness_StepRunsTheDecodedInstruction :
    (atT0 [0x47]).status = .fetching ∧ (atT0 [0x47]).fetchInstr = .ok .ldB_A := ⟨rfl, rfl⟩

/-- O18: each clause; the second one's record address wraps (V5.20). -/
theorem witness_UnknownOpcodeIsRecordedAndNothingElseChanges :
    (let s := atT0 [0x00];
      s.status = .fetching ∧ s.memRead s.pc ≠ 0xED ∧
        unrecognizedFirstByte (s.memRead s.pc) = true) ∧
      let s := running .reset 0xFFFF [(0xFFFF, [0xED, 0x76])];
      s.status = .fetching ∧ s.memRead s.pc = 0xED ∧ s.memRead (s.pc + 1) ≠ 0xB0 := by decide

/-- O19: both sides of the equivalence, true in Fetching and false in Idle. -/
theorem witness_StepAnswersNextExactlyInFetching :
    (∃ t, step (atT0 [0x76]) = .next t) ∧ (atT0 [0x76]).status = .fetching ∧
      next? .reset = none ∧ State.reset.status ≠ .fetching :=
  ⟨⟨_, rfl⟩, rfl, rfl, by decide⟩

/-- O20: a state in each status but Fetching. -/
theorem witness_StepStopsByNameOutsideFetching :
    State.reset.status = .idle ∧
      ((atT0 [0x76]).withStatus .dispatching).status = .dispatching ∧
      ((atT0 [0x76]).withStatus .halted).status = .halted ∧
      ((atT0 [0x76]).withStatus .faulted).status = .faulted := ⟨rfl, rfl, rfl, rfl⟩

/-- O21: a step at the halt byte, and one at another. -/
theorem witness_HaltedExactlyOnTheHaltByte :
    (∃ t, step (atT0 [0x76]) = .next t ∧ t.status = .halted) ∧
      ∃ t, step (atT0 [0x3E, 0x76]) = .next t ∧ t.status ≠ .halted :=
  ⟨⟨_, rfl, rfl⟩, ⟨_, rfl, by decide⟩⟩

/-- O22: a step into each of the statuses listed. -/
theorem witness_StepMovesTheStatusAsListed :
    (next? (atT0 [0x76])).map (·.status) = some .halted ∧
      (next? (running mainT0 0x0500 [(0x0500, [0xED, 0xB1])])).map (·.status) = some .faulted ∧
      (next? (running { mainT0 with bc := 1 } 0x0500 [(0x0500, [0xED, 0xB0])])).map (·.status) =
        some .fetching ∧
      (next? (atT0 [0x77])).map (·.status) = some .faulted ∧
      (next? (atT0 [0x47])).map (·.status) = some .fetching := by decide

/-- O23: a step of each of the six forms. -/
theorem witness_ProgramCounterAdvancesByTheEncodedLength :
    ([[0x31, 0, 0], [0x3E, 0], [0x47], [0x7E], [0xED, 0xB0], [0x76]] : List (List Byte)).map
        (fun bytes =>
          let s := running { mainT0 with bc := 1 } 0x0500 [(0x0500, bytes)]
          ((decode bytes).toOption.map (·.1.form), s.fetchInstr.toOption.map (·.form),
            (next? s).isSome)) =
      [.dd 3 0, .ri 7 0, .rr 0 7, .rm 7, .ed 0xB0, .hlt].map fun f => (some f, some f, true) := rfl

/-- O25: a state with the invariant that makes a step. -/
theorem witness_StepKeepsTheInvariant :
    (atT0 [0xED, 0x76]).Inv ∧ ∃ t, step (atT0 [0xED, 0x76]) = .next t :=
  ⟨⟨by decide, by decide, by decide, by decide, by decide⟩, ⟨_, rfl⟩⟩

/-- O26: a step with other values in the alternate set and IDX. -/
theorem witness_AlternateSetAndIdxAreInert :
    ∃ t, step { atT0 [0x47] with alt := mainT0, main := { mainT0 with idx := 0xFFFF } } = .next t :=
  ⟨_, rfl⟩

/-- O27: a step that is not LD SP,nn, and one that is. -/
theorem witness_StackPointerIsOnlyLoaded :
    (∀ nn, (atT0 [0x47]).fetchInstr ≠ .ok (.ldSP_nn nn)) ∧ (∃ t, step (atT0 [0x47]) = .next t) ∧
      (atT0 [0x31, 0xFE, 0xFF]).status = .fetching ∧
      (atT0 [0x31, 0xFE, 0xFF]).fetchInstr = .ok (.ldSP_nn 0xFFFE) := by
  refine ⟨fun nn h => ?_, ⟨_, rfl⟩, rfl, rfl⟩
  have h' : Except.ok (ε := UnknownOpcode) Instr.ldB_A = .ok (.ldSP_nn nn) := h
  cases h'

/-- O28: a step that is not LDIR's. -/
theorem witness_OnlyTheBlockCopyWritesMemory :
    (atT0 [0x7E]).fetchInstr ≠ .ok .ldir ∧ ∃ t, step (atT0 [0x7E]) = .next t := by
  refine ⟨fun h => ?_, ⟨_, rfl⟩⟩
  have h' : Except.ok (ε := UnknownOpcode) Instr.ldA_atHL = .ok .ldir := h
  cases h'

/-- O29: a step of LDIR, one of another instruction, each with F zero and with F full. -/
theorem witness_FlagsAreClearedByTheBlockCopyAndReadByNothing :
    ∀ f ∈ ([0x00, 0xFF] : List Byte),
      (next? (running { mainT0 with bc := 1, af := joinBytes 0x07 f } 0x0500 [(0x0500, [0xED, 0xB0])])).map
          (·.flagByte) = some (f &&& 0xEF) ∧
        (next? (running { mainT0 with af := joinBytes 0x07 f } 0x0500 [(0x0500, [0x47])])).map
          (·.flagByte) = some f := by decide

/-- O44: a counter of one, after which BC is zero, and the counters 2 and 0, after which it is not. -/
theorem witness_BlockCopyRepeatsUntilTheCounterIsZero :
    (copyByte (running { mainT0 with bc := 1 } 0x0500 [])).main.bc = 0 ∧
      (copyByte (running { mainT0 with bc := 2 } 0x0500 [])).main.bc ≠ 0 ∧
      (copyByte (running { mainT0 with bc := 0 } 0x0500 [])).main.bc ≠ 0 := by decide

/-- O46: flags other than H, bits of AF on both sides of H's, and the default layout, which is legal. -/
theorem witness_BlockCopyClearsTheHalfCarryFlagOnly :
    (∀ x ∈ ([.S, .Z, .PV, .N, .C] : List Flag), x ≠ .H) ∧
      (∀ i ∈ [0, 3, 5, 15], i ≠ State.reset.flagPos .H) ∧
      State.reset.flagLayout.wf = true ∧ State.reset.flagLayout = defaultFlagLayout := by decide

/-- O47: a canonical memory, and the address just past a destination that ends at 0000. -/
theorem witness_BlockCopyWritesItsDestinationOnly :
    (running { mainT0 with bc := 2, de := 0xFFFF } 0x0500 [(0x0506, [1, 2])]).mem.wf = true ∧
      ∀ i, i < copyCount 2 → (0x0001 : Word) ≠ 0xFFFF + BitVec.ofNat 16 i := by
  refine ⟨by decide, fun i hi => ?_⟩
  have h : i < 2 := hi
  interval_cases i <;> decide

/-- O48: with the count n = 3, the distances k = 0, k = n - 1 and k = n. -/
theorem witness_BlockCopyMemoryClosedForm :
    (running { mainT0 with bc := 3, hl := 0x3000 } 0x0500 [(0x3000, [1, 2, 3, 4])]).mem.wf = true ∧
      copyCount 3 = 3 ∧
      ([0x3000, 0x3002, 0x3003] : List Word).map (fun de => (de - 0x3000).toNat) = [0, 2, 3] := by
  refine ⟨by decide, rfl, by decide⟩

/-- O49: V5.7 and V5.8, a zero counter with equal and with different pointers. -/
theorem witness_BlockCopyWithCounterZeroCoversMemory :
    ([0x2000, 0x2001] : List Word).map (fun de =>
        let s := running { RegisterSet.reset with hl := 0x2000, de := de } 0x0500 [(0x2000, [0x76])]
        (s.mem.wf, s.main.bc, s.main.de == s.main.hl)) = [(true, 0, true), (true, 0, false)] := rfl

/-- O50: V5.15, a block copy over its own two bytes, which completes. -/
theorem witness_BlockCopyCompletesInOneStepOverItself :
    let s := running { RegisterSet.reset with hl := 0x4000, de := 0x0500, bc := 2 } 0x0500
      [(0x0500, [0xED, 0xB0]), (0x4000, [0x76, 0x76])]
    s.status = .fetching ∧ s.memRead s.pc = 0xED ∧ s.memRead (s.pc + 1) = 0xB0 ∧
      (next? s).map (fun t => (t.memRead 0x0500, t.memRead 0x0501, t.pc)) =
        some (0x76, 0x76, 0x0502) := by decide

/-- O51: V6.9, loads of 65536 and 65537 bytes at 0000, and one at FFFF. -/
theorem witness_LoadOverflowsExactlyPastTheLastAddress :
    State.reset.status.hostMayAct = true ∧
      (0x0000 : Word).toNat + (List.replicate 65536 (0x76 : Byte)).length ≤ 65536 ∧
      (0x0000 : Word).toNat + (List.replicate 65537 (0x76 : Byte)).length > 65536 ∧
      (0xFFFF : Word).toNat + ([0x76] : List Byte).length ≤ 65536 ∧
      (0xFFFF : Word).toNat + ([0x76, 0x76] : List Byte).length > 65536 := by
  refine ⟨rfl, ?_, ?_, by decide, by decide⟩ <;> rw [List.length_replicate] <;> decide

/-- O52: V6.7, in Halted, with addresses on both sides of the range. -/
theorem witness_LoadCopiesItsBytesAndNothingElse :
    ((atT0 [0x76]).withStatus .halted).status.hostMayAct = true ∧ (atT0 [0x76]).mem.wf = true ∧
      (0xFFF0 : Word).toNat + ([1, 2, 3, 4] : List Byte).length ≤ 65536 ∧
      (0xFFEF : Word).toNat < (0xFFF0 : Word).toNat ∧
      (0xFFF0 : Word).toNat + 4 ≤ (0xFFF4 : Word).toNat := by decide

/-- O53: each clause: Idle and Halted with a first step, a step inside a run, the two ends of a run,
and the statuses that have no run. -/
theorem witness_RunSetsPcAndStatusAndRepeatsTheStep :
    State.reset.status = .idle ∧ ((atT0 []).withStatus .halted).status = .halted ∧
      (∃ t, step { State.reset with pc := 0x0600, status := .fetching } = .next t) ∧
      (atT0 [0x47]).status = .fetching ∧ (∃ t, step (atT0 [0x47]) = .next t) ∧
      ((atT0 [0x36]).raiseUnknownOpcode 0x36 0x0500).status = .faulted ∧
      ((atT0 [0x36]).raiseUnknownOpcode 0x36 0x0500).faultRecord =
        some ⟨.unknownOpcode, 0x36, 0x0500⟩ ∧
      ((atT0 []).withStatus .dispatching).status = .dispatching :=
  ⟨rfl, rfl, ⟨_, rfl⟩, rfl, ⟨_, rfl⟩, rfl, rfl, rfl⟩

/-- O54: V6.1, a run that returns Ok, and V6.3 and V5.16, the two ways it returns UnknownOpcode. -/
theorem witness_RunEndsAsItReports :
    (hostRun 1 0x0600 { atT0 [] with status := .idle, mem := [(0x0600, 0x76)] }).1 = .ok ∧
      (hostRun 1 0x0600 { atT0 [] with status := .idle, mem := [] }).1 =
        .unknownOpcode 0x00 0x0600 ∧
      (hostRun 1 0x0600 { atT0 [] with status := .idle, mem := [(0x0600, 0xED), (0x0601, 0x76)] }).1 =
        .unknownOpcode 0x76 0x0601 := by decide

/-- O56: a finished run, and one whose budget is one step too small. -/
theorem witness_BudgetDoesNotChangeAFinishedRun :
    (hostRun 2 0x0500 ((atT0 [0x47, 0x76]).withStatus .idle)).1 ≠ .budgetExhausted ∧
      (hostRun 1 0x0500 ((atT0 [0x47, 0x76]).withStatus .idle)).1 = .budgetExhausted := by decide

/-- O57: a snapshot in Idle, Halted and Faulted, none in Fetching and Dispatching. -/
theorem witness_InspectionIsAvailableBetweenRuns :
    ([.idle, .fetching, .dispatching, .halted, .faulted] : List Status).map
        (fun st => (hostInspect ((atT0 []).withStatus st)).isSome) =
      [true, false, false, true, true] := by decide

/-- O58: the engine created with memory full of 76 and another layout, loaded, started at 0600 and stepped into Halted. -/
theorem witness_EveryEngineStateKeepsItsInertState :
    ∃ s t u : State, hostLoad 0xFFFF [0x76] (State.resetWith (fun _ => 0x76) otherLayout) = (.ok, s) ∧
      EngineState s ∧ t = s.startRun 0x0600 ∧ EngineState t ∧ step t = .next u ∧ EngineState u ∧
      u.status = .halted := by
  obtain ⟨s, hs⟩ : ∃ s, hostLoad 0xFFFF [0x76] (State.resetWith (fun _ => 0x76) otherLayout) = (.ok, s) :=
    ⟨_, rfl⟩
  have hs' : (hostLoad 0xFFFF [0x76] (State.resetWith (fun _ => 0x76) otherLayout)).2 = s := by rw [hs]
  have hread : (s.startRun 0x0600).memRead 0x0600 = 0x76 := by
    rw [← hs']
    exact (Memory.read_write_other (Memory.wf_ofContent _) _ (by decide)).trans
      (Memory.read_ofContent _ _)
  have hidle : s.status = .idle := by rw [← hs']; rfl
  have hfetch : (s.startRun 0x0600).fetchInstr = .ok .halt := by
    show decodeBytes ((s.startRun 0x0600).memRead 0x0600) _ _ = _
    rw [hread]; rfl
  have hstep : step (s.startRun 0x0600) = .next ((s.startRun 0x0600).withStatus .halted) := by
    show (match (s.startRun 0x0600).fetchInstr with
      | .error u => Host.Outcome.next ((s.startRun 0x0600).rejectOpcode u)
      | .ok i => dispatch i (s.startRun 0x0600)) = _
    rw [hfetch]; rfl
  have es : EngineState s := .load _ _ (.reset _ _ (by decide)) hs
  have et : EngineState (s.startRun 0x0600) := .start _ es (.inl hidle)
  exact ⟨s, _, _, hs, es, rfl, et, hstep, .step et hstep, rfl⟩

/-- O59: a step that is not LDIR's, one that is, a load and a run. -/
theorem witness_FlagLayoutIsAParameterThatOnlyTheBlockCopyReads :
    (atT0 [0x47]).fetchInstr ≠ .ok .ldir ∧ (∃ t, step (atT0 [0x47]) = .next t) ∧
      (∃ t, step (running { mainT0 with bc := 1 } 0x0500 [(0x0500, [0xED, 0xB0])]) = .next t) := by
  refine ⟨fun h => ?_, ⟨_, rfl⟩, ⟨_, rfl⟩⟩
  have h' : Except.ok (ε := UnknownOpcode) Instr.ldB_A = .ok .ldir := h
  cases h'

/-- O60: a state with the invariant and the flag byte zero that makes LDIR's step. -/
theorem witness_StepKeepsTheInertStateAndTheInvariant :
    let s := running { mainT0 with bc := 1, af := 0x0700 } 0x0500 [(0x0500, [0xED, 0xB0])];
    s.Inv ∧ s.flagByte = 0 ∧ ∃ t, step s = .next t :=
  ⟨⟨by decide, by decide, by decide, by decide, by decide⟩, by decide, ⟨_, rfl⟩⟩

/-- R69: a run of P5 that ends well: `pc` wraps, and the halt is at 0000. -/
theorem test_run_succeeds :
    ∃ t, RunSucceeds 3 0xFFFD { State.reset with
        mem := Memory.writeBytes [] 0xFFFD [0x3E, 0x42, 0x47, 0x76] } t ∧
      t.main.af = 0x4200 ∧ t.main.bc = 0x4200 ∧ t.pc = 0x0000 := by
  refine ⟨_, rfl, ?_⟩
  decide

end Sys2Proof.Tests
end

section
/-! SUPPORT. Laws of the halves and of the flag byte (10_state.md R10 to R13, R19 to R21). -/

namespace Sys2Proof.Machine

/-! ### A pair and its two halves -/

theorem getLsbD_joinBytes (h l : Byte) (i : Nat) :
    (joinBytes h l).getLsbD i = if i < 8 then l.getLsbD i else h.getLsbD (i - 8) :=
  BitVec.getLsbD_append

/-- R12: joining two bytes, in the spec's terms. -/
theorem joinBytes_eq_shift_or (h l : Byte) :
    joinBytes h l = (h.setWidth 16 <<< 8) ||| l.setWidth 16 := by
  refine BitVec.eq_of_getLsbD_eq fun i hi => ?_
  rw [getLsbD_joinBytes, BitVec.getLsbD_or, BitVec.getLsbD_shiftLeft]
  split
  · next hlt => simp [hlt, hi]
  · next hge =>
    have hhigh : i - 8 < 16 := by omega
    simp [hge, hi, hhigh, BitVec.getLsbD_of_ge l i (Nat.le_of_not_lt hge)]

/-- R12: the high byte, in the spec's terms. -/
theorem hiByte_eq_shiftRight (v : Word) : hiByte v = (v >>> 8).setWidth 8 := by
  ext i hi
  simp [hiByte]

/-- R12: the low byte, in the spec's terms. -/
theorem loByte_eq_and (v : Word) : loByte v = (v &&& 0xFF).setWidth 8 := by
  have hmask : (0xFF : Word).setWidth 8 = BitVec.allOnes 8 := rfl
  rw [BitVec.setWidth_and, hmask, BitVec.and_allOnes]
  ext i hi
  simp [loByte]

theorem RegisterSet.getHalf_of_high (g : RegisterSet) {x : Half} (hx : x.isHigh = true) :
    g.getHalf x = hiByte (g.getPair x.pair) := if_pos hx

theorem RegisterSet.getHalf_of_low (g : RegisterSet) {x : Half} (hx : x.isHigh = false) :
    g.getHalf x = loByte (g.getPair x.pair) := if_neg (by simp [hx])

/-- A high half and a low half of one pair, as R11's table gives them. -/
structure HalvesOfOnePair (high low : Half) : Prop where
  samePair : low.pair = high.pair
  highIsHigh : high.isHigh = true
  lowIsLow : low.isHigh = false

namespace HalvesOfOnePair

variable {high low : Half}

theorem ne (hl : HalvesOfOnePair high low) : low ≠ high := by
  rintro rfl
  exact absurd hl.highIsHigh (by simp [hl.lowIsLow])

theorem getHalf_low (hl : HalvesOfOnePair high low) (g : RegisterSet) :
    g.getHalf low = loByte (g.getPair high.pair) := by
  rw [g.getHalf_of_low hl.lowIsLow, hl.samePair]

/-- R12: at all times the pair is its two halves joined. -/
theorem getPair_eq (hl : HalvesOfOnePair high low) (g : RegisterSet) :
    g.getPair high.pair = joinBytes (g.getHalf high) (g.getHalf low) := by
  rw [g.getHalf_of_high hl.highIsHigh, hl.getHalf_low, joinBytes_hiByte_loByte]

end HalvesOfOnePair

/-! ### Writes of halves -/

/-- R11: of two writes of one half the later stands. -/
theorem RegisterSet.setHalf_setHalf_same (g : RegisterSet) (x : Half) (b c : Byte) :
    (g.setHalf x b).setHalf x c = g.setHalf x c := by
  cases x <;>
    simp [RegisterSet.setHalf, RegisterSet.getPair, RegisterSet.setPair, Half.pair, Half.isHigh]

/-- R11: writing back what a half holds changes nothing. -/
theorem RegisterSet.setHalf_getHalf (g : RegisterSet) (x : Half) :
    g.setHalf x (g.getHalf x) = g := by
  cases x <;>
    simp [RegisterSet.setHalf, RegisterSet.getHalf, RegisterSet.getPair, RegisterSet.setPair,
      Half.pair, Half.isHigh]

/-- R11: a write of F and a write of an indexed half may change places. -/
theorem RegisterSet.setHalf_setHalf_F (g : RegisterSet) (r : Reg8) (b f : Byte) :
    (g.setHalf .F f).setHalf (halfOf r) b = (g.setHalf (halfOf r) b).setHalf .F f := by
  cases r with
  | A =>
    simp [RegisterSet.setHalf, RegisterSet.getPair, RegisterSet.setPair, halfOf, Half.pair,
      Half.isHigh]
  | _ => rfl

/-! ### One bit of the flag byte -/

/-- R20: a write of a bit below 8 keeps the high byte. -/
theorem hiByte_putBit {pos : Nat} (b : Bool) (v : Word) (hp : pos < 8) :
    hiByte (putBit pos b v) = hiByte v := by
  refine BitVec.eq_of_getLsbD_eq fun i _ => ?_
  unfold hiByte
  rw [BitVec.getLsbD_extractLsb', BitVec.getLsbD_extractLsb',
    getLsbD_putBit pos b v (8 + i) (by omega), if_neg (by omega)]

/-- R13: the flag byte is the low byte of AF. -/
theorem State.getLsbD_flagByte (s : State) (i : Nat) :
    s.flagByte.getLsbD i = (decide (i < 8) && s.main.af.getLsbD i) := by
  show (s.main.af.extractLsb' 0 8).getLsbD i = _
  rw [BitVec.getLsbD_extractLsb', Nat.zero_add]

/-- R20: a flag write, bit by bit of AF. -/
theorem State.getLsbD_setFlag_af (s : State) (x : Flag) (b : Bool) (i : Nat) :
    (s.setFlag x b).main.af.getLsbD i = if i = s.flagPos x then b else s.main.af.getLsbD i :=
  getLsbD_putBit _ b _ i (Nat.lt_trans (s.flagPos_lt x) (by omega))

/-- R20: a flag write, bit by bit of F. -/
theorem State.getLsbD_setFlag_flagByte (s : State) (x : Flag) (b : Bool) (i : Nat) :
    (s.setFlag x b).flagByte.getLsbD i =
      if i = s.flagPos x then b else s.flagByte.getLsbD i := by
  rw [State.getLsbD_flagByte, State.getLsbD_setFlag_af, State.getLsbD_flagByte]
  split
  · next h => simp [h, s.flagPos_lt x]
  · rfl

theorem State.getFlag_setFlag_same (s : State) (x : Flag) (b : Bool) :
    (s.setFlag x b).getFlag x = b :=
  (s.getLsbD_setFlag_flagByte x b (s.flagPos x)).trans (if_pos rfl)

/-- D3: where the six flags sit at six bits, a write of one keeps every other. -/
theorem State.getFlag_setFlag_other (s : State) {x y : Flag} (b : Bool)
    (hl : s.flagLayout.wf = true) (hy : y ≠ x) : (s.setFlag x b).getFlag y = s.getFlag y :=
  (s.getLsbD_setFlag_flagByte x b (s.flagPos y)).trans
    (if_neg fun h => hy (FlagLayout.pos_injective hl h))

/-- Clearing a flag of a zero flag byte leaves it zero. -/
theorem State.flagByte_setFlag_false_eq_zero {s : State} (x : Flag) (h : s.flagByte = 0) :
    (s.setFlag x false).flagByte = 0 := by
  refine BitVec.eq_of_getLsbD_eq fun i _ => ?_
  rw [State.getLsbD_setFlag_flagByte, h]
  split <;> simp

/-! ### Which updates keep the flag byte -/

/-- R13: the flag byte is a function of AF. -/
theorem State.flagByte_congr {s t : State} (h : t.main.af = s.main.af) :
    t.flagByte = s.flagByte :=
  congrArg loByte h

theorem State.flagByte_writeR8 (s : State) (r : Reg8) (b : Byte) :
    (s.writeR8 r b).flagByte = s.flagByte :=
  s.main.getHalf_setHalf_other b (halfOf_ne_F r)

theorem State.flagByte_writeDest16 (s : State) (d : Dest16) (v : Word) :
    (s.writeDest16 d v).flagByte = s.flagByte := by cases d <;> rfl

/-- R21: no instruction but LDIR writes F. -/
theorem exec_keeps_flagByte {s t : State} {i : Instr} (hi : i ≠ .ldir) (h : exec i s = .next t) :
    t.flagByte = s.flagByte := by
  obtain ⟨d, nn, -, rfl⟩ | ⟨r, n, -, rfl⟩ | ⟨r, r', -, rfl⟩ | ⟨r, -, rfl⟩ | ⟨hldir, -⟩ | ⟨-, rfl⟩ :=
    exec_cases h
  · exact s.flagByte_writeDest16 d nn
  · exact s.flagByte_writeR8 r n
  · exact s.flagByte_writeR8 r _
  · exact s.flagByte_writeR8 r _
  · exact absurd hldir hi
  · rfl

/-- R21: no step but LDIR's writes F. -/
theorem step_keeps_flagByte {s t : State} (hs : s.fetchInstr ≠ .ok .ldir) (h : step s = .next t) :
    t.flagByte = s.flagByte := by
  obtain ⟨-, ⟨u, -, rfl⟩ | ⟨i, t', hf, he, rfl⟩⟩ := step_cases h
  · exact State.flagByte_congr (by simp)
  · have hi : i ≠ .ldir := fun hi => hs (hi ▸ hf)
    calc t'.endDispatch.flagByte
        = t'.flagByte := State.flagByte_congr (by simp)
      _ = (s.beginDispatch i).flagByte := exec_keeps_flagByte hi he
      _ = s.flagByte := State.flagByte_congr (by simp)

/-- R61, R99: LDIR's step answers the finished copy, with flag H clear and `pc` past two bytes. -/
theorem step_ldir_eq {s t : State} (hs : s.fetchInstr = .ok .ldir) (h : step s = .next t) :
    t = (((blockCopy (s.beginDispatch .ldir)).setFlag .H false).advancePc 2).endDispatch := by
  obtain ⟨-, ⟨u, hf, -⟩ | ⟨i, t', hf, he, rfl⟩⟩ := step_cases h
  · exact absurd (hf.symm.trans hs) (by simp)
  · obtain rfl : i = .ldir := Except.ok.inj (hf.symm.trans hs)
    rw [← Host.Outcome.next.inj he]

theorem step_ldir_flagPos {s t : State} (hs : s.fetchInstr = .ok .ldir) (h : step s = .next t)
    (x : Flag) : t.flagPos x = s.flagPos x := by
  rw [step_ldir_eq hs h]
  simp [State.flagPos]

/-- R102: what LDIR's step does to F is to clear flag H. -/
theorem step_ldir_flagByte {s t : State} (hs : s.fetchInstr = .ok .ldir) (h : step s = .next t) :
    t.flagByte = (s.setFlag .H false).flagByte :=
  State.flagByte_congr (by rw [step_ldir_eq hs h]; simp [State.flagPos, blockCopy_main])

/-! ### Another flag byte -/

/-- The state with another value in the flag byte and everything else as it was. -/
def State.setFlagByte (s : State) (f : Byte) : State :=
  { s with main := s.main.setHalf .F f }

@[simp] theorem State.flagByte_setFlagByte (s : State) (f : Byte) :
    (s.setFlagByte f).flagByte = f :=
  s.main.getHalf_setHalf_same .F f

theorem State.setFlagByte_setFlagByte (s : State) (f f' : Byte) :
    (s.setFlagByte f).setFlagByte f' = s.setFlagByte f' :=
  congrArg (fun g => { s with main := g }) (s.main.setHalf_setHalf_same .F f f')

theorem State.setFlagByte_flagByte (s : State) : s.setFlagByte s.flagByte = s :=
  congrArg (fun g => { s with main := g }) (s.main.setHalf_getHalf .F)

theorem State.rejectOpcode_setFlagByte (s : State) (u : UnknownOpcode) (f : Byte) :
    (s.setFlagByte f).rejectOpcode u = (s.rejectOpcode u).setFlagByte f := by cases u <;> rfl

theorem State.beginDispatch_setFlagByte (s : State) (i : Instr) (f : Byte) :
    (s.setFlagByte f).beginDispatch i = (s.beginDispatch i).setFlagByte f := by cases i <;> rfl

theorem State.endDispatch_setFlagByte (s : State) (f : Byte) :
    (s.setFlagByte f).endDispatch = s.endDispatch.setFlagByte f := by
  have hst : (s.setFlagByte f).status = s.status := rfl
  unfold State.endDispatch
  rw [hst]
  split <;> rfl

theorem State.writeDest16_setFlagByte (s : State) (d : Dest16) (v : Word) (f : Byte) :
    (s.setFlagByte f).writeDest16 d v = (s.writeDest16 d v).setFlagByte f := by cases d <;> rfl

theorem State.readR8_setFlagByte (s : State) (r : Reg8) (f : Byte) :
    (s.setFlagByte f).readR8 r = s.readR8 r :=
  s.main.getHalf_setHalf_other f (halfOf_ne_F r).symm

/-- R91: the byte an indirect load reads does not depend on F. -/
theorem State.memRead_pointer_setFlagByte (s : State) (f : Byte) :
    (s.setFlagByte f).memRead (s.setFlagByte f).pointer = s.memRead s.pointer := rfl

theorem State.writeR8_setFlagByte (s : State) (r : Reg8) (b f : Byte) :
    (s.setFlagByte f).writeR8 r b = (s.writeR8 r b).setFlagByte f :=
  congrArg (fun g => { s with main := g }) (s.main.setHalf_setHalf_F r b f)

theorem State.advancePc_setFlagByte (s : State) (len : Word) (f : Byte) :
    (s.setFlagByte f).advancePc len = (s.advancePc len).setFlagByte f := rfl

theorem blockCopy_setFlagByte (s : State) (f : Byte) :
    blockCopy (s.setFlagByte f) = (blockCopy s).setFlagByte f := by
  have hbyte : Function.Semiconj (·.setFlagByte f) copyByte copyByte := fun _ => rfl
  rw [blockCopy_eq_iterate, blockCopy_eq_iterate]
  exact (hbyte.iterate_right _ s).symm

/-- R20: a flag write, being one of a bit below 8, changes nothing but the flag byte. -/
theorem State.setFlag_eq_setFlagByte (s : State) (x : Flag) (b : Bool) :
    s.setFlag x b = s.setFlagByte (s.setFlag x b).flagByte := by
  have hjoin : putBit (s.flagPos x) b s.main.af =
      joinBytes (hiByte s.main.af) (loByte (putBit (s.flagPos x) b s.main.af)) := by
    rw [← hiByte_putBit b s.main.af (s.flagPos_lt x), joinBytes_hiByte_loByte]
  exact congrArg (s.setPair .AF) hjoin

/-- What an old flag byte leaves behind after a flag write is in the flag byte alone. -/
theorem State.setFlag_setFlagByte (s : State) (x : Flag) (b : Bool) (f : Byte) :
    (s.setFlagByte f).setFlag x b =
      (s.setFlag x b).setFlagByte ((s.setFlagByte f).setFlag x b).flagByte := by
  conv_lhs => rw [State.setFlag_eq_setFlagByte, State.setFlagByte_setFlagByte]
  rw [s.setFlag_eq_setFlagByte x b, State.setFlagByte_setFlagByte]

/-- R21: what another flag byte changes of an instruction's next state is at most the flag byte. -/
theorem exec_setFlagByte (i : Instr) (s : State) (f : Byte) :
    ∃ t f', exec i s = .next t ∧ exec i (s.setFlagByte f) = .next (t.setFlagByte f') := by
  rcases i.class_cases with ⟨d, nn, rfl⟩ | ⟨r, n, rfl⟩ | ⟨r, r', rfl⟩ | ⟨r, rfl⟩ | rfl | rfl
  · exact ⟨_, f, exec_load16 d nn s, by
      rw [exec_load16, State.writeDest16_setFlagByte, State.advancePc_setFlagByte]⟩
  · exact ⟨_, f, exec_load8 r n s, by
      rw [exec_load8, State.writeR8_setFlagByte, State.advancePc_setFlagByte]⟩
  · exact ⟨_, f, exec_transfer r r' s, by
      rw [exec_transfer, State.readR8_setFlagByte, State.writeR8_setFlagByte,
        State.advancePc_setFlagByte]⟩
  · exact ⟨_, f, exec_loadAtHL r s, by
      rw [exec_loadAtHL, State.memRead_pointer_setFlagByte, State.writeR8_setFlagByte,
        State.advancePc_setFlagByte]⟩
  · exact ⟨_, _, exec_ldir s, by
      rw [exec_ldir, blockCopy_setFlagByte, State.setFlag_setFlagByte,
        State.advancePc_setFlagByte]⟩
  · exact ⟨_, f, exec_halt s, rfl⟩

/-- R61: outside Fetching the status alone decides the step's fault. -/
theorem step_fault_of_not_fetching {s : State} (hs : s.status ≠ .fetching) :
    ∃ r, ∀ s' : State, s'.status = s.status → step s' = .fault r := by
  cases hst : s.status with
  | idle => exact ⟨.awaitingRun, fun s' h => by unfold step; rw [h]⟩
  | fetching => exact absurd hst hs
  | dispatching => exact ⟨.handlerRunning, fun s' h => by unfold step; rw [h]⟩
  | halted => exact ⟨.runEnded, fun s' h => by unfold step; rw [h]⟩
  | faulted => exact ⟨.stuckInFaulted, fun s' h => by unfold step; rw [h]⟩

/-- R61: the step at bytes that are no instruction. -/
theorem step_of_unknown {s : State} {u : UnknownOpcode} (hs : s.status = .fetching)
    (hf : s.fetchInstr = .error u) : step s = .next (s.rejectOpcode u) := by
  unfold step
  rw [hs, hf]

/-- R61: the step at an instruction. -/
theorem step_of_exec {s t : State} {i : Instr} (hs : s.status = .fetching)
    (hf : s.fetchInstr = .ok i) (he : exec i (s.beginDispatch i) = .next t) :
    step s = .next t.endDispatch := by
  unfold step dispatch
  simp only [hs, hf, he]

/-- R21: with another flag byte a step stops with the same fault, or it answers a next state that
differs at most in the flag byte. -/
theorem step_setFlagByte (s : State) (f : Byte) :
    (∃ r, step s = .fault r ∧ step (s.setFlagByte f) = .fault r) ∨
      ∃ t f', step s = .next t ∧ step (s.setFlagByte f) = .next (t.setFlagByte f') := by
  by_cases hs : s.status = .fetching
  · have hs' : (s.setFlagByte f).status = .fetching := hs
    right
    cases hf : s.fetchInstr with
    | error u =>
      have hf' : (s.setFlagByte f).fetchInstr = .error u := hf
      exact ⟨_, f, step_of_unknown hs hf, by
        rw [step_of_unknown hs' hf', State.rejectOpcode_setFlagByte]⟩
    | ok i =>
      have hf' : (s.setFlagByte f).fetchInstr = .ok i := hf
      obtain ⟨t, f', he, he'⟩ := exec_setFlagByte i (s.beginDispatch i) f
      rw [← State.beginDispatch_setFlagByte] at he'
      exact ⟨_, f', step_of_exec hs hf he, by
        rw [step_of_exec hs' hf' he', State.endDispatch_setFlagByte]⟩
  · obtain ⟨r, hr⟩ := step_fault_of_not_fetching hs
    exact .inl ⟨r, hr s rfl, hr (s.setFlagByte f) rfl⟩

end Sys2Proof.Machine
end

section
/-! SUPPORT. The statements on registers and flags, settled (10_state.md R11, R12, R20, R21). -/

namespace Sys2Proof.Machine

/-- Settles O3: each half is by definition a byte of one pair's cell. -/
theorem halvesAreViewsOfPairs : Obligations.HalvesAreViewsOfPairs := by
  unfold Obligations.HalvesAreViewsOfPairs
  intro g b
  exact ⟨rfl, rfl, rfl, rfl, rfl, rfl, rfl, rfl, rfl, rfl, rfl, rfl, rfl, rfl, rfl, rfl⟩

/-- Settles O4: a pair is its two halves joined at all times, so whichever view was written last. -/
theorem pairAndHalvesAlias : Obligations.PairAndHalvesAlias := by
  unfold Obligations.PairAndHalvesAlias
  intro g high low hpair hhigh hlow
  have halves : HalvesOfOnePair high low := ⟨hpair, hhigh, hlow⟩
  refine ⟨?_, fun v => ⟨?_, ?_⟩, fun h l => ⟨?_, ?_⟩⟩
  · rw [halves.getPair_eq, joinBytes_eq_shift_or]
  · rw [RegisterSet.getHalf_of_high _ hhigh, RegisterSet.getPair_setPair_same, hiByte_eq_shiftRight]
  · rw [halves.getHalf_low, RegisterSet.getPair_setPair_same, loByte_eq_and]
  · rw [halves.getPair_eq, RegisterSet.getHalf_setHalf_other _ _ halves.ne.symm,
      RegisterSet.getHalf_setHalf_same, RegisterSet.getHalf_setHalf_same, joinBytes_eq_shift_or]
  · rw [halves.getPair_eq, RegisterSet.getHalf_setHalf_other _ _ halves.ne,
      RegisterSet.getHalf_setHalf_same, RegisterSet.getHalf_setHalf_same, joinBytes_eq_shift_or]

/-- Settles O6, from the bit-by-bit account of a flag write. -/
theorem flagWriteChangesOneBit : Obligations.FlagWriteChangesOneBit := by
  unfold Obligations.FlagWriteChangesOneBit
  intro s x b
  exact ⟨rfl, s.getLsbD_setFlag_af x b, s.getFlag_setFlag_same x b,
    fun hl _ hy => s.getFlag_setFlag_other b hl hy⟩

/-- Settles O29: what a step does to F is said by `step_keeps_flagByte` and `step_ldir_flagByte`, and
what F does to a step by `step_setFlagByte`. -/
theorem flagsAreClearedByTheBlockCopyAndReadByNothing :
    Obligations.FlagsAreClearedByTheBlockCopyAndReadByNothing := by
  unfold Obligations.FlagsAreClearedByTheBlockCopyAndReadByNothing
  refine ⟨rfl, fun s f =>
    ⟨fun t ht => ⟨fun hs => step_keeps_flagByte hs ht, fun hs => ⟨?_, ?_⟩, ?_⟩, ?_⟩⟩
  · unfold State.getFlag
    rw [step_ldir_flagByte hs ht, step_ldir_flagPos hs ht]
    exact s.getFlag_setFlag_same .H false
  · intro i hi
    rw [step_ldir_flagByte hs ht, State.getLsbD_setFlag_flagByte, if_neg hi]
  · intro hzero
    by_cases hs : s.fetchInstr = .ok .ldir
    · rw [step_ldir_flagByte hs ht, State.flagByte_setFlag_false_eq_zero .H hzero]
    · rw [step_keeps_flagByte hs ht, hzero]
  · obtain ⟨r, hstep, hother⟩ | ⟨t, f', hstep, hother⟩ := step_setFlagByte s f
    · change step { s with main := s.main.setHalf .F f } = _ at hother
      rw [hstep, hother]
    · change step { s with main := s.main.setHalf .F f } = _ at hother
      rw [hstep, hother]
      show (t.setFlagByte f').setFlagByte t.flagByte = t
      rw [State.setFlagByte_setFlagByte, State.setFlagByte_flagByte]

end Sys2Proof.Machine
end

section
/-! SUPPORT. What the bytes behind the opcode decide (30_encoding.md R49, R50, R52, R53, R55, R59): they
fill the operand of a form and nothing else, and an instruction is decoded exactly where the bytes
have its form. -/

namespace Sys2Proof

variable {op b1 b2 : Byte} {f : Form} {i : Instr}

/-! ### The form of the bytes -/

/-- R59: the form that `op` gives with other bytes behind it, from the form it gives with some: the
fields taken from `op` stay, those taken from the bytes behind it are replaced. -/
def Form.withBytesBehind (c1 c2 : Byte) : Form → Form
  | .dd sel _ => .dd sel (joinBytes c2 c1)
  | .ri rrr _ => .ri rrr c1
  | .rr ddd sss => .rr ddd sss
  | .rm ddd => .rm ddd
  | .ed _ => .ed c1
  | .hlt => .hlt

theorem Form.ofBytes_withBytesBehind (op b1 b2 c1 c2 : Byte) :
    Form.ofBytes op c1 c2 = (Form.ofBytes op b1 b2).map (Form.withBytesBehind c1 c2) := by
  unfold Form.ofBytes
  split_ifs <;> rfl

/-- R49, R50: in the form of three bytes the operand is the one those bytes give. -/
theorem Form.withBytesBehind_of_ofBytes (h : Form.ofBytes op b1 b2 = some f) :
    f.withBytesBehind b1 b2 = f := by
  have hself := Form.ofBytes_withBytesBehind op b1 b2 b1 b2
  rw [h] at hself
  exact (Option.some.inj hself).symm

/-- R45: a form of one byte has no operand behind it. -/
theorem Form.withBytesBehind_of_length_one (c1 c2 : Byte) (h : f.length = 1) :
    f.withBytesBehind c1 c2 = f := by
  cases f with
  | dd | ri | ed => simp [Form.length] at h
  | rr | rm | hlt => rfl

/-- R52: the first test finds the halt, and no later one does. -/
theorem Form.ofBytes_eq_hlt : Form.ofBytes op b1 b2 = some .hlt ↔ op = 0x76 := by
  unfold Form.ofBytes
  by_cases hop : op = 0x76
  · simp [hop]
  · rw [if_neg hop]
    refine iff_of_false (fun h => ?_) hop
    split_ifs at h <;> simp at h

/-- R52, R55: only behind `ED` is the second byte an opcode byte. -/
theorem Form.ofBytes_eq_ed {op2 : Byte} :
    Form.ofBytes op b1 b2 = some (.ed op2) ↔ op = 0xED ∧ b1 = op2 := by
  unfold Form.ofBytes
  by_cases hop : op = 0xED
  · simp [hop]
  · rw [if_neg hop]
    refine iff_of_false (fun h => ?_) fun h => hop h.1
    split_ifs at h <;> simp at h

/-! ### The instruction of the bytes -/

/-- R52: an instruction is decoded exactly where the bytes have its form. -/
theorem decodeBytes_eq_ok : decodeBytes op b1 b2 = .ok i ↔ Form.ofBytes op b1 b2 = some i.form := by
  constructor
  · intro h
    obtain ⟨f, hf, hi⟩ := decodeBytes_ok h
    rw [hf, Instr.form_of_ofForm hi]
  · intro h
    unfold decodeBytes
    simp only [h, (Laws.FormTable.all i).2]

/-- R53: bytes whose form is no instruction are rejected. -/
theorem decodeBytes_of_ofForm_none (hf : Form.ofBytes op b1 b2 = some f)
    (hi : Instr.ofForm f = none) : decodeBytes op b1 b2 = .error (f.blame op) := by
  unfold decodeBytes
  simp only [hf, hi]

/-- R110: but behind `ED`, a decode failure blames the first byte. -/
theorem decodeBytes_error {u : UnknownOpcode} (hop : op ≠ 0xED)
    (h : decodeBytes op b1 b2 = .error u) : u = .firstByte op := by
  unfold decodeBytes at h
  split at h
  · exact (Except.error.inj h).symm
  · next f hf =>
    split at h
    · exact absurd h (by simp)
    · cases f with
      | ed op2 => exact absurd (Form.ofBytes_eq_ed.1 hf).1 hop
      | dd | ri | rr | rm | hlt => exact (Except.error.inj h).symm

/-- R55: what `ED` decodes to. -/
theorem decodeBytes_ED (b1 b2 : Byte) :
    decodeBytes 0xED b1 b2 = if b1 = 0xB0 then .ok .ldir else .error (.secondByte b1) := by
  have hf : Form.ofBytes 0xED b1 b2 = some (.ed b1) := Form.ofBytes_eq_ed.2 ⟨rfl, rfl⟩
  split
  · next hb => exact decodeBytes_eq_ok.2 (hb ▸ hf)
  · next hb => exact decodeBytes_of_ofForm_none hf (if_neg hb)

/-- R55: the block copy is decoded behind `ED` alone. -/
theorem eq_ED_of_decodeBytes_ldir (h : decodeBytes op b1 b2 = .ok .ldir) : op = 0xED :=
  (Form.ofBytes_eq_ed.1 (decodeBytes_eq_ok.1 h)).1

/-- R107: the halt is decoded from `76` alone. -/
theorem decodeBytes_eq_halt : decodeBytes op b1 b2 = .ok .halt ↔ op = 0x76 :=
  decodeBytes_eq_ok.trans Form.ofBytes_eq_hlt

/-- R48, R49: the bytes of a 16-bit immediate load. -/
theorem decodeBytes_load16 (d : Dest16) (b1 b2 : Byte) :
    decodeBytes (0b00#2 ++ d.selector ++ 0b0001#4) b1 b2 = .ok (.load16 d (joinBytes b2 b1)) := by
  cases d <;> rfl

/-- R46, R50: the bytes of an 8-bit immediate load. -/
theorem decodeBytes_load8 (r : Reg8) (b1 b2 : Byte) :
    decodeBytes (0b00#2 ++ r.index ++ 0b110#3) b1 b2 = .ok (.load8 r b1) := by
  cases r <;> rfl

/-- R49: a decoded 16-bit immediate is the two bytes behind the opcode, the low one first. -/
theorem immediate_of_decodeBytes_load16 {d : Dest16} {nn : Word}
    (h : decodeBytes op b1 b2 = .ok (.load16 d nn)) : nn = joinBytes b2 b1 := by
  have hf := decodeBytes_eq_ok.1 h
  rw [Instr.form_load16] at hf
  exact (Form.dd.inj (Form.withBytesBehind_of_ofBytes hf)).2.symm

/-- R50: a decoded 8-bit immediate is the byte behind the opcode. -/
theorem immediate_of_decodeBytes_load8 {r : Reg8} {n : Byte}
    (h : decodeBytes op b1 b2 = .ok (.load8 r n)) : n = b1 := by
  have hf := decodeBytes_eq_ok.1 h
  rw [Instr.form_load8] at hf
  exact (Form.ri.inj (Form.withBytesBehind_of_ofBytes hf)).2.symm

/-! ### Other bytes behind the same opcode -/

/-- R59: with other bytes behind it, an opcode that decodes gives the instruction whose form has them
as its operand. -/
theorem decodeBytes_withBytesBehind {j : Instr} {c1 c2 : Byte} (h : decodeBytes op b1 b2 = .ok i)
    (hj : i.form.withBytesBehind c1 c2 = j.form) : decodeBytes op c1 c2 = .ok j := by
  rw [decodeBytes_eq_ok, Form.ofBytes_withBytesBehind op b1 b2, decodeBytes_eq_ok.1 h]
  exact congrArg some hj

theorem decodeBytes_load16_withBytesBehind {d : Dest16} {nn : Word} (c1 c2 : Byte)
    (h : decodeBytes op b1 b2 = .ok (.load16 d nn)) :
    decodeBytes op c1 c2 = .ok (.load16 d (joinBytes c2 c1)) :=
  decodeBytes_withBytesBehind h (by simp [Form.withBytesBehind])

theorem decodeBytes_load8_withBytesBehind {r : Reg8} {n : Byte} (c1 c2 : Byte)
    (h : decodeBytes op b1 b2 = .ok (.load8 r n)) : decodeBytes op c1 c2 = .ok (.load8 r c1) :=
  decodeBytes_withBytesBehind h (by simp [Form.withBytesBehind])

theorem decodeBytes_withBytesBehind_of_length_one (c1 c2 : Byte)
    (h : decodeBytes op b1 b2 = .ok i) (hi : i.length = 1) : decodeBytes op c1 c2 = .ok i :=
  decodeBytes_withBytesBehind h (Form.withBytesBehind_of_length_one c1 c2 hi)

/-- R45, R51: but for the block copy, an instruction is a load of an immediate or has one byte. -/
theorem Instr.immediate_or_length_one (hi : i ≠ .ldir) :
    (∃ d nn, i = .load16 d nn) ∨ (∃ r n, i = .load8 r n) ∨ i.length = 1 := by
  rcases i.class_cases with h16 | h8 | ⟨r, r', rfl⟩ | ⟨r, rfl⟩ | rfl | rfl
  · exact .inl h16
  · exact .inr (.inl h8)
  · exact .inr (.inr (congrArg Form.length (Instr.form_transfer r r')))
  · exact .inr (.inr (congrArg Form.length (Instr.form_loadAtHL r)))
  · exact absurd rfl hi
  · exact .inr (.inr rfl)

/-- R59: what an opcode other than `ED` decodes to is of a kind that other bytes behind it keep. -/
theorem immediate_or_length_one_of_decodeBytes (hop : op ≠ 0xED)
    (h : decodeBytes op b1 b2 = .ok i) :
    (∃ d nn, i = .load16 d nn) ∨ (∃ r n, i = .load8 r n) ∨ i.length = 1 :=
  Instr.immediate_or_length_one fun hi => hop (eq_ED_of_decodeBytes_ldir (hi ▸ h))

/-- R59: whether an opcode decodes does not depend on the bytes behind it. -/
theorem decodeBytes_ok_withBytesBehind (c1 c2 : Byte) (hop : op ≠ 0xED)
    (h : decodeBytes op b1 b2 = .ok i) : ∃ j, decodeBytes op c1 c2 = .ok j := by
  obtain ⟨d, nn, rfl⟩ | ⟨r, n, rfl⟩ | hi := immediate_or_length_one_of_decodeBytes hop h
  · exact ⟨_, decodeBytes_load16_withBytesBehind c1 c2 h⟩
  · exact ⟨_, decodeBytes_load8_withBytesBehind c1 c2 h⟩
  · exact ⟨_, decodeBytes_withBytesBehind_of_length_one c1 c2 h hi⟩

/-- R53, R59: an opcode that fails, fails alike whatever stands behind it. -/
theorem decodeBytes_error_withBytesBehind {u : UnknownOpcode} (c1 c2 : Byte) (hop : op ≠ 0xED)
    (h : decodeBytes op b1 b2 = .error u) : decodeBytes op c1 c2 = .error u := by
  cases hc : decodeBytes op c1 c2 with
  | error u' => rw [decodeBytes_error hop h, decodeBytes_error hop hc]
  | ok i =>
    obtain ⟨j, hj⟩ := decodeBytes_ok_withBytesBehind b1 b2 hop hc
    exact absurd (h.symm.trans hj) (by simp)

end Sys2Proof
end

section
/-! SUPPORT. The statements on the encoding's operand bytes and on the byte `ED`, settled
(30_encoding.md R49, R50, R55, R59). -/

namespace Sys2Proof.Machine

/-- Settles O14: `ED` goes to the one format whose second byte is an opcode byte, and no other first
byte does. -/
theorem prefixRecognizesOneInstruction : Obligations.PrefixRecognizesOneInstruction := by
  unfold Obligations.PrefixRecognizesOneInstruction
  intro b1 b2
  exact ⟨decodeBytes_ED b1 b2, fun _ h => eq_ED_of_decodeBytes_ldir h⟩

/-- Settles O15: the bytes behind the opcode only fill the operand of the form that the opcode gives. -/
theorem operandBytesAreNotDecoded : Obligations.OperandBytesAreNotDecoded := by
  unfold Obligations.OperandBytesAreNotDecoded
  intro op b1 b2 c1 c2
  refine ⟨?_, fun hop => ⟨?_, ?_, ?_, ?_, ?_, decodeBytes_eq_halt⟩⟩
  · rw [decodeBytes_ED, decodeBytes_ED]
  · exact fun u h => decodeBytes_error_withBytesBehind c1 c2 hop h
  · exact fun d nn h => decodeBytes_load16_withBytesBehind c1 c2 h
  · exact fun r n h => decodeBytes_load8_withBytesBehind c1 c2 h
  · exact fun i h hi => decodeBytes_withBytesBehind_of_length_one c1 c2 h hi
  · exact fun i h => immediate_or_length_one_of_decodeBytes hop h

/-- Settles O16: the operand of a decoded form is the bytes behind the opcode, and the opcode of a load
decodes with any bytes behind it. -/
theorem immediatesComeFromTheBytesAfterTheOpcode :
    Obligations.ImmediatesComeFromTheBytesAfterTheOpcode := by
  unfold Obligations.ImmediatesComeFromTheBytesAfterTheOpcode
  intro s
  refine ⟨?_, ?_, ?_, ?_⟩
  · exact fun d nn h => immediate_of_decodeBytes_load16 h
  · exact fun r n h => immediate_of_decodeBytes_load8 h
  · intro d nn
    exact ⟨_, by rw [decodeBytes_load16, joinBytes_hiByte_loByte]⟩
  · exact fun r n => ⟨_, fun b2 => decodeBytes_load8 r n b2⟩

end Sys2Proof.Machine
end

section
/-! SUPPORT. What a step does to `pc` and to the status (40_sequencer.md R60, R61, R63, R65): first for
`exec`, class by class, then for the step around it. -/

namespace Sys2Proof

/-- R65: how far a form moves `pc`: by its encoded length, but the halt by nothing (R107). -/
def Form.pcAdvance : Form → Word
  | .hlt => 0
  | f => BitVec.ofNat 16 f.length

namespace Machine

variable {s t : State} {i : Instr}

/-! ### `exec` -/

/-- R65: each meaning moves `pc` as far as its form is long, the halt's not at all. -/
theorem exec_pc (h : exec i s = .next t) : t.pc = s.pc + i.form.pcAdvance := by
  obtain ⟨d, nn, rfl, rfl⟩ | ⟨r, n, rfl, rfl⟩ | ⟨r, r', rfl, rfl⟩ | ⟨r, rfl, rfl⟩ | ⟨rfl, rfl⟩ |
    ⟨rfl, rfl⟩ := exec_cases h
  · simp [Form.pcAdvance, Form.length]
  · simp [Form.pcAdvance, Form.length]
  · simp [Form.pcAdvance, Form.length]
  · simp [Form.pcAdvance, Form.length]
  · simp [Form.pcAdvance, Form.length, Instr.form]
  · simp [Form.pcAdvance, Instr.form]

/-- R60: no meaning but the halt's changes the status. -/
theorem exec_keeps_status (hi : i ≠ .halt) (h : exec i s = .next t) : t.status = s.status := by
  obtain ⟨d, nn, -, rfl⟩ | ⟨r, n, -, rfl⟩ | ⟨r, r', -, rfl⟩ | ⟨r, -, rfl⟩ | ⟨-, rfl⟩ | ⟨hhalt, -⟩ :=
    exec_cases h
  · simp
  · simp
  · simp
  · simp
  · simp
  · exact absurd hhalt hi

/-! ### The step -/

/-- R61: a step at an instruction runs its meaning. -/
theorem exec_of_step (hf : s.fetchInstr = .ok i) (h : step s = .next t) :
    ∃ t', exec i (s.beginDispatch i) = .next t' ∧ t = t'.endDispatch := by
  obtain ⟨-, ⟨u, hu, -⟩ | ⟨j, t', hj, he, ht⟩⟩ := step_cases h
  · exact absurd (hu.symm.trans hf) (by simp)
  · obtain rfl : j = i := Except.ok.inj (hj.symm.trans hf)
    exact ⟨t', he, ht⟩

theorem step_pc (hf : s.fetchInstr = .ok i) (h : step s = .next t) :
    t.pc = s.pc + i.form.pcAdvance := by
  obtain ⟨t', he, rfl⟩ := exec_of_step hf h
  rw [State.endDispatch_pc, exec_pc he, State.beginDispatch_pc]

/-- R63: the test for the halt is on the byte at `pc`. -/
theorem State.fetchInstr_eq_halt : s.fetchInstr = .ok .halt ↔ s.memRead s.pc = 0x76 :=
  decodeBytes_eq_halt

/-- R107: the halt's step changes the status alone. -/
theorem step_halt_eq (hf : s.fetchInstr = .ok .halt) (h : step s = .next t) :
    t = s.withStatus .halted := by
  obtain ⟨t', he, rfl⟩ := exec_of_step hf h
  rw [← Host.Outcome.next.inj he]
  rfl

/-- R60: Dispatching ends in Fetching. -/
theorem State.endDispatch_status_of_dispatching (hs : s.status = .dispatching) :
    s.endDispatch.status = .fetching := by
  unfold State.endDispatch
  rw [hs]
  rfl

/-- R60: an instruction other than the halt leaves the engine in Fetching. -/
theorem step_status_of_ne_halt (hi : i ≠ .halt) (hf : s.fetchInstr = .ok i)
    (h : step s = .next t) : t.status = .fetching := by
  obtain ⟨t', he, rfl⟩ := exec_of_step hf h
  refine State.endDispatch_status_of_dispatching ?_
  rw [exec_keeps_status hi he, beginDispatch_of_ne_halt hi, State.withStatus_status]

/-- R53, R110: bytes that are no instruction leave the engine in Faulted. -/
theorem step_status_of_unknown {u : UnknownOpcode} (hf : s.fetchInstr = .error u)
    (h : step s = .next t) : t.status = .faulted := by
  have hs : s.status = .fetching := (step_cases h).1
  obtain rfl := Host.Outcome.next.inj ((step_of_unknown hs hf).symm.trans h)
  exact s.rejectOpcode_status u

/-- R63: only the halt's step ends in Halted. -/
theorem step_status_eq_halted (h : step s = .next t) :
    t.status = .halted ↔ s.fetchInstr = .ok .halt := by
  constructor
  · intro ht
    cases hf : s.fetchInstr with
    | error u => exact absurd ((step_status_of_unknown hf h).symm.trans ht) (by simp)
    | ok i =>
      by_cases hi : i = .halt
      · rw [hi]
      · exact absurd ((step_status_of_ne_halt hi hf h).symm.trans ht) (by simp)
  · intro hf
    rw [step_halt_eq hf h, State.withStatus_status]

end Machine
end Sys2Proof
end

section
/-! SUPPORT. The statements on the sequencer's status and `pc`, settled (40_sequencer.md R63, R65). -/

namespace Sys2Proof.Machine

/-- Settles O21: the halt is the only instruction whose step ends in Halted, and 76 alone is the halt. -/
theorem haltedExactlyOnTheHaltByte : Obligations.HaltedExactlyOnTheHaltByte := by
  unfold Obligations.HaltedExactlyOnTheHaltByte
  intro s t h
  exact ⟨(step_status_eq_halted h).trans State.fetchInstr_eq_halt,
    fun hbyte => step_halt_eq (State.fetchInstr_eq_halt.2 hbyte) h⟩

/-- Settles O23, from what each meaning adds to `pc`; dispatch itself does not move it. -/
theorem programCounterAdvancesByTheEncodedLength :
    Obligations.ProgramCounterAdvancesByTheEncodedLength := by
  unfold Obligations.ProgramCounterAdvancesByTheEncodedLength
  intro s t i hf h
  rw [step_pc hf h]
  cases i.form <;> rfl

end Sys2Proof.Machine
end

section
/-! SUPPORT. The 16-bit immediate load as a list of bytes (30_encoding.md R45, R46, R52): what `decode`
answers where the bytes at its head decode, and at those of the load. -/

namespace Sys2Proof

/-- R45, R52: a list whose first bytes decode to an instruction it is long enough for begins with that
instruction, and the rest is what stands behind it. -/
theorem decode_of_decodeBytes {op : Byte} {rest : List Byte} {i : Instr}
    (h : decodeBytes op (rest.getD 0 0) (rest.getD 1 0) = .ok i)
    (hlen : i.length ≤ rest.length + 1) :
    decode (op :: rest) = .ok (i, (op :: rest).drop i.length) := by
  unfold decode
  simp only [h, if_pos hlen]

theorem Instr.length_load16 (d : Dest16) (nn : Word) : (Instr.load16 d nn).length = 3 :=
  congrArg Form.length (Instr.form_load16 d nn)

/-- R46, R48, R70: the byte of the destination, the low and the high byte of the immediate. -/
theorem decode_load16 (d : Dest16) (lo hi : Byte) (rest : List Byte) :
    decode ((0b00#2 ++ d.selector ++ 0b0001#4) :: lo :: hi :: rest) =
      .ok (.load16 d (joinBytes hi lo), rest) := by
  have hlen := Instr.length_load16 d (joinBytes hi lo)
  rw [decode_of_decodeBytes (rest := lo :: hi :: rest) (decodeBytes_load16 d lo hi)
    (by simp [hlen]), hlen]
  rfl

end Sys2Proof
end

section
/-! SUPPORT. The statements on the four 16-bit immediate loads, settled (41_ld16_imm.md R71 to R74). Each is
the class's encoding (`decode_load16`) and the class's meaning (`exec_load16`) at one destination. -/

namespace Sys2Proof.Machine

/-- Settles O30: `01` holds the selector of BC. -/
theorem loadBCImmediate : Obligations.LoadBCImmediate := by
  unfold Obligations.LoadBCImmediate
  exact ⟨fun lo hi => decode_load16 .BC lo hi [], fun s lo hi => exec_load16 .BC (hi ++ lo) s⟩

/-- Settles O31: `11` holds the selector of DE. -/
theorem loadDEImmediate : Obligations.LoadDEImmediate := by
  unfold Obligations.LoadDEImmediate
  exact ⟨fun lo hi => decode_load16 .DE lo hi [], fun s lo hi => exec_load16 .DE (hi ++ lo) s⟩

/-- Settles O32: `21` holds the selector of HL. -/
theorem loadHLImmediate : Obligations.LoadHLImmediate := by
  unfold Obligations.LoadHLImmediate
  exact ⟨fun lo hi => decode_load16 .HL lo hi [], fun s lo hi => exec_load16 .HL (hi ++ lo) s⟩

/-- Settles O33: `31` holds the selector of SP. -/
theorem loadSPImmediate : Obligations.LoadSPImmediate := by
  unfold Obligations.LoadSPImmediate
  exact ⟨fun lo hi => decode_load16 .SP lo hi [], fun s lo hi => exec_load16 .SP (hi ++ lo) s⟩

end Sys2Proof.Machine
end

section
/-! SUPPORT. Registers that no pair holds (10_state.md R15, R18): SP, IDX and the alternate set. An update
of the register sets that the reads and writes of the main set's pairs do not see commutes with every
instruction and every step. -/

namespace Sys2Proof.Machine

/-- An update of a register set that the pairs do not see: no read of a pair depends on it, and it may
change places with every write of one. -/
structure UnseenByPairs (g : RegisterSet → RegisterSet) : Prop where
  getPair : ∀ r p, (g r).getPair p = r.getPair p
  setPair : ∀ r p v, (g r).setPair p v = g (r.setPair p v)

/-- The state with `g` done to its main register set and `g'` to its alternate one. -/
def State.mapRegisters (g g' : RegisterSet → RegisterSet) (s : State) : State :=
  { s with main := g s.main, alt := g' s.alt }

variable {g g' : RegisterSet → RegisterSet} {i : Instr}

/-! ### The halves -/

theorem UnseenByPairs.getHalf (hg : UnseenByPairs g) (r : RegisterSet) (x : Half) :
    (g r).getHalf x = r.getHalf x := by
  unfold RegisterSet.getHalf
  rw [hg.getPair]

theorem UnseenByPairs.setHalf (hg : UnseenByPairs g) (r : RegisterSet) (x : Half) (b : Byte) :
    (g r).setHalf x b = g (r.setHalf x b) := by
  unfold RegisterSet.setHalf
  rw [hg.getPair, hg.setPair]

/-! ### The sequencer's operations -/

theorem State.rejectOpcode_mapRegisters (s : State) (u : UnknownOpcode) :
    (s.mapRegisters g g').rejectOpcode u = (s.rejectOpcode u).mapRegisters g g' := by cases u <;> rfl

theorem State.beginDispatch_mapRegisters (s : State) (i : Instr) :
    (s.mapRegisters g g').beginDispatch i = (s.beginDispatch i).mapRegisters g g' := by
  cases i <;> rfl

theorem State.endDispatch_mapRegisters (s : State) :
    (s.mapRegisters g g').endDispatch = s.endDispatch.mapRegisters g g' := by
  have hst : (s.mapRegisters g g').status = s.status := rfl
  unfold State.endDispatch
  rw [hst]
  split <;> rfl

theorem State.advancePc_mapRegisters (s : State) (len : Word) :
    (s.mapRegisters g g').advancePc len = (s.advancePc len).mapRegisters g g' := rfl

/-! ### The instructions' operations -/

theorem State.setPair_mapRegisters (hg : UnseenByPairs g) (s : State) (p : Pair) (v : Word) :
    (s.mapRegisters g g').setPair p v = (s.setPair p v).mapRegisters g g' :=
  congrArg (fun r => { s with main := r, alt := g' s.alt }) (hg.setPair s.main p v)

theorem State.writeDest16_mapRegisters (hg : UnseenByPairs g) (s : State) {d : Dest16}
    (hd : d ≠ .SP) (v : Word) :
    (s.mapRegisters g g').writeDest16 d v = (s.writeDest16 d v).mapRegisters g g' := by
  cases d with
  | BC => exact s.setPair_mapRegisters hg .BC v
  | DE => exact s.setPair_mapRegisters hg .DE v
  | HL => exact s.setPair_mapRegisters hg .HL v
  | SP => exact absurd rfl hd

theorem State.readR8_mapRegisters (hg : UnseenByPairs g) (s : State) (r : Reg8) :
    (s.mapRegisters g g').readR8 r = s.readR8 r :=
  hg.getHalf s.main (halfOf r)

theorem State.writeR8_mapRegisters (hg : UnseenByPairs g) (s : State) (r : Reg8) (b : Byte) :
    (s.mapRegisters g g').writeR8 r b = (s.writeR8 r b).mapRegisters g g' :=
  congrArg (fun m => { s with main := m, alt := g' s.alt }) (hg.setHalf s.main (halfOf r) b)

/-- R91: the byte an indirect load reads is at the address in a pair. -/
theorem State.memRead_pointer_mapRegisters (hg : UnseenByPairs g) (s : State) :
    (s.mapRegisters g g').memRead (s.mapRegisters g g').pointer = s.memRead s.pointer :=
  congrArg s.memRead (hg.getPair s.main .HL)

theorem State.setFlag_mapRegisters (hg : UnseenByPairs g) (s : State) (x : Flag) (b : Bool) :
    (s.mapRegisters g g').setFlag x b = (s.setFlag x b).mapRegisters g g' := by
  have haf : (s.mapRegisters g g').getPair .AF = s.getPair .AF := hg.getPair s.main .AF
  have hpos : (s.mapRegisters g g').flagPos x = s.flagPos x := rfl
  unfold State.setFlag
  rw [haf, hpos, State.setPair_mapRegisters hg]

/-- R99: one iteration of the block copy is a memory write and three writes of pairs. -/
theorem copyByte_eq_setPair (s : State) :
    copyByte s =
      (((s.memWrite (s.getPair .DE) (s.memRead (s.getPair .HL))).setPair .HL
        (s.getPair .HL + 1)).setPair .DE (s.getPair .DE + 1)).setPair .BC (s.getPair .BC - 1) := rfl

theorem copyByte_mapRegisters (hg : UnseenByPairs g) (s : State) :
    copyByte (s.mapRegisters g g') = (copyByte s).mapRegisters g g' := by
  have hpair : ∀ p, (s.mapRegisters g g').getPair p = s.getPair p := hg.getPair s.main
  have hread : ∀ a, (s.mapRegisters g g').memRead a = s.memRead a := fun _ => rfl
  have hwrite : ∀ a v, (s.mapRegisters g g').memWrite a v = (s.memWrite a v).mapRegisters g g' :=
    fun _ _ => rfl
  simp only [copyByte_eq_setPair, hpair, hread, hwrite, State.setPair_mapRegisters hg]

theorem blockCopy_mapRegisters (hg : UnseenByPairs g) (s : State) :
    blockCopy (s.mapRegisters g g') = (blockCopy s).mapRegisters g g' := by
  have hbyte : Function.Semiconj (State.mapRegisters g g') copyByte copyByte :=
    fun s => (copyByte_mapRegisters hg s).symm
  have hbc : (s.mapRegisters g g').main.bc = s.main.bc := hg.getPair s.main .BC
  rw [blockCopy_eq_iterate, blockCopy_eq_iterate, hbc]
  exact (hbyte.iterate_right _ s).symm

/-! ### Instructions and steps -/

/-- An instruction but `LD SP,nn` answers a next state, and commutes with an update that the pairs do not
see. -/
theorem exec_mapRegisters (hg : UnseenByPairs g) (hi : ∀ nn, i ≠ .ldSP_nn nn) (s : State) :
    ∃ t, exec i s = .next t ∧ exec i (s.mapRegisters g g') = .next (t.mapRegisters g g') := by
  rcases i.class_cases with ⟨d, nn, rfl⟩ | ⟨r, n, rfl⟩ | ⟨r, r', rfl⟩ | ⟨r, rfl⟩ | rfl | rfl
  · have hd : d ≠ .SP := fun hd => hi nn (by rw [hd]; rfl)
    exact ⟨_, exec_load16 d nn s, by
      rw [exec_load16, State.writeDest16_mapRegisters hg s hd, State.advancePc_mapRegisters]⟩
  · exact ⟨_, exec_load8 r n s, by
      rw [exec_load8, State.writeR8_mapRegisters hg, State.advancePc_mapRegisters]⟩
  · exact ⟨_, exec_transfer r r' s, by
      rw [exec_transfer, State.readR8_mapRegisters hg, State.writeR8_mapRegisters hg,
        State.advancePc_mapRegisters]⟩
  · exact ⟨_, exec_loadAtHL r s, by
      rw [exec_loadAtHL, State.memRead_pointer_mapRegisters hg, State.writeR8_mapRegisters hg,
        State.advancePc_mapRegisters]⟩
  · exact ⟨_, exec_ldir s, by
      rw [exec_ldir, blockCopy_mapRegisters hg, State.setFlag_mapRegisters hg,
        State.advancePc_mapRegisters]⟩
  · exact ⟨_, exec_halt s, rfl⟩

/-- R61: a step commutes with an update of the registers if the instruction it runs does: it stops with
the same fault, or it answers the next state with the same update. -/
theorem step_mapRegisters_of_exec (s : State)
    (hexec : ∀ i, s.fetchInstr = .ok i → ∃ t, exec i (s.beginDispatch i) = .next t ∧
      exec i ((s.beginDispatch i).mapRegisters g g') = .next (t.mapRegisters g g')) :
    (∃ r, step s = .fault r ∧ step (s.mapRegisters g g') = .fault r) ∨
      ∃ t, step s = .next t ∧ step (s.mapRegisters g g') = .next (t.mapRegisters g g') := by
  by_cases hs : s.status = .fetching
  · have hs' : (s.mapRegisters g g').status = .fetching := hs
    right
    cases hf : s.fetchInstr with
    | error u =>
      have hf' : (s.mapRegisters g g').fetchInstr = .error u := hf
      exact ⟨_, step_of_unknown hs hf, by
        rw [step_of_unknown hs' hf', State.rejectOpcode_mapRegisters]⟩
    | ok i =>
      have hf' : (s.mapRegisters g g').fetchInstr = .ok i := hf
      obtain ⟨t, he, he'⟩ := hexec i hf
      rw [← State.beginDispatch_mapRegisters] at he'
      exact ⟨_, step_of_exec hs hf he, by
        rw [step_of_exec hs' hf' he', State.endDispatch_mapRegisters]⟩
  · obtain ⟨r, hr⟩ := step_fault_of_not_fetching hs
    exact .inl ⟨r, hr s rfl, hr (s.mapRegisters g g') rfl⟩

end Sys2Proof.Machine
end

section
/-! SUPPORT. The stack pointer (10_state.md R15, 41_ld16_imm.md R74): no pair holds it, so only `LD SP,nn`
has to do with it, and that overwrites it. -/

namespace Sys2Proof.Machine

variable {s t : State}

/-- R15: the register set with another value in SP. -/
def RegisterSet.setSP (r : RegisterSet) (v : Word) : RegisterSet := { r with sp := v }

theorem unseenByPairs_setSP (v : Word) : UnseenByPairs (·.setSP v) where
  getPair := fun _ p => by cases p <;> rfl
  setPair := fun _ p _ => by cases p <;> rfl

/-- R15: the state with another value in SP. -/
def State.setSP (s : State) (v : Word) : State := s.mapRegisters (·.setSP v) id

theorem State.setSP_sp_self (s : State) : s.setSP s.main.sp = s := rfl

/-- Another value in SP changes nothing of a step that is not `LD SP,nn`'s but that value. -/
theorem step_setSP (hs : ∀ nn, s.fetchInstr ≠ .ok (.ldSP_nn nn)) (v : Word) :
    (∃ r, step s = .fault r ∧ step (s.setSP v) = .fault r) ∨
      ∃ t, step s = .next t ∧ step (s.setSP v) = .next (t.setSP v) :=
  step_mapRegisters_of_exec s fun i hf =>
    exec_mapRegisters (unseenByPairs_setSP v) (fun nn hi => hs nn (hi ▸ hf)) (s.beginDispatch i)

/-- A step that is not `LD SP,nn`'s keeps SP: writing the old value before it, which changes nothing, is
writing it after it. -/
theorem step_keeps_sp (hs : ∀ nn, s.fetchInstr ≠ .ok (.ldSP_nn nn)) (h : step s = .next t) :
    t.main.sp = s.main.sp := by
  obtain ⟨r, hfault, -⟩ | ⟨t', ht, hset⟩ := step_setSP hs s.main.sp
  · exact absurd (hfault.symm.trans h) (by simp)
  · obtain rfl : t' = t := Host.Outcome.next.inj (ht.symm.trans h)
    have hself : t' = t'.setSP s.main.sp := by
      rw [State.setSP_sp_self, h] at hset
      exact Host.Outcome.next.inj hset
    rw [hself]
    rfl

/-- R74: `LD SP,nn` overwrites SP. -/
theorem exec_ldSP_setSP (nn v : Word) (s : State) :
    exec (.ldSP_nn nn) (s.setSP v) = exec (.ldSP_nn nn) s := rfl

/-- R74: nothing of the old value in SP is left after the step of `LD SP,nn`. -/
theorem step_ldSP_setSP {nn : Word} (hs : s.status = .fetching)
    (hf : s.fetchInstr = .ok (.ldSP_nn nn)) (v : Word) : step (s.setSP v) = step s := by
  have hs' : (s.setSP v).status = .fetching := hs
  have hf' : (s.setSP v).fetchInstr = .ok (.ldSP_nn nn) := hf
  have he := exec_load16 .SP nn (s.beginDispatch (.ldSP_nn nn))
  have he' := (exec_ldSP_setSP nn v (s.beginDispatch (.ldSP_nn nn))).trans he
  rw [step_of_exec hs hf he, step_of_exec hs' hf' he']

end Sys2Proof.Machine
end

section
/-! SUPPORT. The statement on the stack pointer, settled (10_state.md R15, 41_ld16_imm.md R74). -/

namespace Sys2Proof.Machine

/-- Settles O27: SP is in no pair, so a step commutes with a write of SP, and `LD SP,nn` overwrites
it. -/
theorem stackPointerIsOnlyLoaded : Obligations.StackPointerIsOnlyLoaded := by
  unfold Obligations.StackPointerIsOnlyLoaded
  refine fun s v => ⟨fun hs => ⟨fun t ht => step_keeps_sp hs ht, ?_⟩,
    fun nn hs hf => step_ldSP_setSP hs hf v⟩
  show step (s.setSP v) = _
  obtain ⟨r, hstep, hset⟩ | ⟨t, hstep, hset⟩ := step_setSP hs v
  · rw [hset, hstep]
  · rw [hset, hstep]
    rfl

end Sys2Proof.Machine
end

section
/-! SUPPORT. The 8-bit immediate load as a list of bytes (30_encoding.md R45, R46, R50). -/

namespace Sys2Proof

theorem Instr.length_load8 (r : Reg8) (n : Byte) : (Instr.load8 r n).length = 2 :=
  congrArg Form.length (Instr.form_load8 r n)

/-- R46, R50, R75: the byte with the register's index, then the immediate. -/
theorem decode_load8 (r : Reg8) (n : Byte) (rest : List Byte) :
    decode ((0b00#2 ++ r.index ++ 0b110#3) :: n :: rest) = .ok (.load8 r n, rest) := by
  have hlen := Instr.length_load8 r n
  rw [decode_of_decodeBytes (rest := n :: rest) (decodeBytes_load8 r n _) (by simp [hlen]), hlen]
  rfl

end Sys2Proof
end

section
/-! SUPPORT. The statement on the 8-bit immediate load, settled (42_ld8_imm.md R75 to R82). -/

namespace Sys2Proof.Machine

/-- Settles O34: each opcode holds its register's index (`decode_load8`), and the class's meaning
(`exec_load8`) at a register writes one byte of its pair's cell. -/
theorem loadRegisterImmediate : Obligations.LoadRegisterImmediate := by
  unfold Obligations.LoadRegisterImmediate
  exact ⟨fun n => ⟨decode_load8 .B n [], decode_load8 .C n [], decode_load8 .D n [],
      decode_load8 .E n [], decode_load8 .H n [], decode_load8 .L n [], decode_load8 .A n []⟩,
    fun s n => ⟨exec_load8 .B n s, exec_load8 .C n s, exec_load8 .D n s, exec_load8 .E n s,
      exec_load8 .H n s, exec_load8 .L n s, exec_load8 .A n s⟩⟩

end Sys2Proof.Machine
end

section
/-! SUPPORT. The register-to-register transfer as a list of bytes (30_encoding.md R45, R46, R52), and
statements about every indexed register written out register by register (10_state.md R14). -/

namespace Sys2Proof

/-- R14: what holds of every indexed register, in the order of the indices. -/
theorem Reg8.forall_reg8 {p : Reg8 → Prop} :
    (∀ r, p r) ↔ p .B ∧ p .C ∧ p .D ∧ p .E ∧ p .H ∧ p .L ∧ p .A := by
  refine ⟨fun h => ⟨h .B, h .C, h .D, h .E, h .H, h .L, h .A⟩, ?_⟩
  rintro ⟨hB, hC, hD, hE, hH, hL, hA⟩ r
  cases r <;> assumption

theorem Instr.length_transfer (r r' : Reg8) : (Instr.transfer r r').length = 1 :=
  congrArg Form.length (Instr.form_transfer r r')

/-- R46, R83: the byte with the indices of both registers; nothing behind it counts. -/
theorem decodeBytes_transfer (r r' : Reg8) (b1 b2 : Byte) :
    decodeBytes (0b01#2 ++ r.index ++ r'.index) b1 b2 = .ok (.transfer r r') := by
  cases r <;> cases r' <;> rfl

/-- R46, R83: a transfer is that one byte. -/
theorem decode_transfer (r r' : Reg8) (rest : List Byte) :
    decode ((0b01#2 ++ r.index ++ r'.index) :: rest) = .ok (.transfer r r', rest) := by
  have hlen := Instr.length_transfer r r'
  rw [decode_of_decodeBytes (decodeBytes_transfer r r' _ _) (by simp [hlen]), hlen]
  rfl

end Sys2Proof
end

section
/-! SUPPORT. The statements on the register-to-register transfers, settled, a destination each
(43_ld_reg_reg.md R83 to R90). -/

namespace Sys2Proof.Machine

/-- Settles O35: `ddd = 000` names B, the high byte of BC. -/
theorem transferToB : Obligations.TransferToB := by
  unfold Obligations.TransferToB
  exact ⟨Reg8.forall_reg8.1 fun r' => decode_transfer .B r' [],
    fun s => Reg8.forall_reg8.1 fun r' => exec_transfer .B r' s⟩

/-- Settles O36: `ddd = 001` names C, the low byte of BC. -/
theorem transferToC : Obligations.TransferToC := by
  unfold Obligations.TransferToC
  exact ⟨Reg8.forall_reg8.1 fun r' => decode_transfer .C r' [],
    fun s => Reg8.forall_reg8.1 fun r' => exec_transfer .C r' s⟩

/-- Settles O37: `ddd = 010` names D, the high byte of DE. -/
theorem transferToD : Obligations.TransferToD := by
  unfold Obligations.TransferToD
  exact ⟨Reg8.forall_reg8.1 fun r' => decode_transfer .D r' [],
    fun s => Reg8.forall_reg8.1 fun r' => exec_transfer .D r' s⟩

/-- Settles O38: `ddd = 011` names E, the low byte of DE. -/
theorem transferToE : Obligations.TransferToE := by
  unfold Obligations.TransferToE
  exact ⟨Reg8.forall_reg8.1 fun r' => decode_transfer .E r' [],
    fun s => Reg8.forall_reg8.1 fun r' => exec_transfer .E r' s⟩

/-- Settles O39: `ddd = 100` names H, the high byte of HL. -/
theorem transferToH : Obligations.TransferToH := by
  unfold Obligations.TransferToH
  exact ⟨Reg8.forall_reg8.1 fun r' => decode_transfer .H r' [],
    fun s => Reg8.forall_reg8.1 fun r' => exec_transfer .H r' s⟩

/-- Settles O40: `ddd = 101` names L, the low byte of HL. -/
theorem transferToL : Obligations.TransferToL := by
  unfold Obligations.TransferToL
  exact ⟨Reg8.forall_reg8.1 fun r' => decode_transfer .L r' [],
    fun s => Reg8.forall_reg8.1 fun r' => exec_transfer .L r' s⟩

/-- Settles O41: `ddd = 111` names A, the high byte of AF, so the flag byte below it stays. -/
theorem transferToA : Obligations.TransferToA := by
  unfold Obligations.TransferToA
  exact ⟨Reg8.forall_reg8.1 fun r' => decode_transfer .A r' [],
    fun s => Reg8.forall_reg8.1 fun r' => exec_transfer .A r' s⟩

end Sys2Proof.Machine
end

section
/-! SUPPORT. The indirect load as a list of bytes (30_encoding.md R45, R46, R52). -/

namespace Sys2Proof

theorem Instr.length_loadAtHL (r : Reg8) : (Instr.loadAtHL r).length = 1 :=
  congrArg Form.length (Instr.form_loadAtHL r)

/-- R46, R91: the byte with the destination's index; nothing behind it counts. -/
theorem decodeBytes_loadAtHL (r : Reg8) (b1 b2 : Byte) :
    decodeBytes (0b01#2 ++ r.index ++ 0b110#3) b1 b2 = .ok (.loadAtHL r) := by
  cases r <;> rfl

/-- R46, R91: an indirect load is that one byte. -/
theorem decode_loadAtHL (r : Reg8) (rest : List Byte) :
    decode ((0b01#2 ++ r.index ++ 0b110#3) :: rest) = .ok (.loadAtHL r, rest) := by
  have hlen := Instr.length_loadAtHL r
  rw [decode_of_decodeBytes (decodeBytes_loadAtHL r _ _) (by simp [hlen]), hlen]
  rfl

end Sys2Proof
end

section
/-! SUPPORT. The statement on the indirect load, settled (44_ld_indirect.md R91 to R98). -/

namespace Sys2Proof.Machine

/-- Settles O42: each opcode holds its register's index (`decode_loadAtHL`), and the class's meaning
(`exec_loadAtHL`) reads the byte at HL from the state before the write, so H and L as destinations
are cases like the others. -/
theorem loadRegisterThroughHL : Obligations.LoadRegisterThroughHL := by
  unfold Obligations.LoadRegisterThroughHL
  exact ⟨Reg8.forall_reg8.1 fun r => decode_loadAtHL r [],
    fun s => Reg8.forall_reg8.1 fun r => exec_loadAtHL r s⟩

end Sys2Proof.Machine
end

section
/-! SUPPORT. What the block copy leaves in memory (45_block_copy.md R101, R103): iteration `i` writes the
address `DE + i`, once, and reads the address `HL + i`, which iteration `i - k` wrote if the
destination lies `k` addresses past the source. -/

namespace Sys2Proof.Machine

/-! ### The addresses of one run -/

/-- R101: a run of at most 65536 addresses meets none of them twice. -/
theorem add_ofNat_ne_of_lt (a : Word) {i j : Nat} (hij : i < j) (hj : j < 65536) :
    a + BitVec.ofNat 16 i ≠ a + BitVec.ofNat 16 j := by
  bv_omega

/-- R103: how far the destination lies past the source, modulo 65536. -/
def copyDistance (s : State) : Nat := (s.main.de - s.main.hl).toNat

theorem copyDistance_lt (s : State) : copyDistance s < 65536 := (s.main.de - s.main.hl).isLt

theorem de_eq_add_copyDistance (s : State) :
    s.main.de = s.main.hl + BitVec.ofNat 16 (copyDistance s) := by
  rw [copyDistance, BitVec.ofNat_toNat, BitVec.setWidth_eq, BitVec.add_comm, BitVec.sub_add_cancel]

theorem de_add_eq (s : State) (i : Nat) :
    s.main.de + BitVec.ofNat 16 i = s.main.hl + BitVec.ofNat 16 (copyDistance s + i) := by
  rw [de_eq_add_copyDistance s, BitVec.ofNat_add, BitVec.add_assoc]

/-- R103: no iteration before the `n`-th writes the source of the `n`-th, if the destination starts there
or past it, or where the source started. -/
theorem source_ne_destination {s : State} {i n : Nat} (hi : i < n) (hn : n < 65536)
    (hk : copyDistance s = 0 ∨ n < copyDistance s) :
    s.main.hl + BitVec.ofNat 16 n ≠ s.main.de + BitVec.ofNat 16 i := by
  have hlt := copyDistance_lt s
  rw [de_add_eq]
  rcases hk with hk | hk
  · rw [hk, Nat.zero_add]
    exact (add_ofNat_ne_of_lt _ hi hn).symm
  · bv_omega

/-! ### Repeated iterations -/

/-- R99: iteration `n` reads `HL + n` and writes `DE + n`. -/
theorem iterate_copyByte_succ_mem (n : Nat) (s : State) :
    (copyByte^[n + 1] s).mem =
      (copyByte^[n] s).mem.write (s.main.de + BitVec.ofNat 16 n)
        ((copyByte^[n] s).mem.read (s.main.hl + BitVec.ofNat 16 n)) := by
  rw [Function.iterate_succ_apply', copyByte_mem, iterate_copyByte_main]

/-- R103: `n` iterations write at most `n` addresses from the destination on. -/
theorem read_iterate_copyByte_outside {s : State} (hs : s.mem.wf = true) {n : Nat} {a : Word}
    (ha : ∀ i, i < n → a ≠ s.main.de + BitVec.ofNat 16 i) :
    (copyByte^[n] s).mem.read a = s.mem.read a := by
  induction n with
  | zero => rfl
  | succ n ih =>
    rw [iterate_copyByte_succ_mem,
      Memory.read_write_other (wf_iterate_copyByte n hs) _ (ha n n.lt_succ_self)]
    exact ih fun i hi => ha i (Nat.lt_succ_of_lt hi)

/-- R103: over itself the copy writes back what it reads. -/
theorem iterate_copyByte_mem_of_de_eq_hl {s : State} (hs : s.mem.wf = true)
    (h : s.main.de = s.main.hl) (n : Nat) : (copyByte^[n] s).mem = s.mem := by
  induction n with
  | zero => rfl
  | succ n ih => rw [iterate_copyByte_succ_mem, ih, h, Memory.write_read_self hs]

/-- R103: destination `i` holds what source `i mod k` held, whatever the distance `k`: at a distance of
zero or past `i`, `i mod k` is `i`. -/
theorem read_iterate_copyByte {s : State} (hs : s.mem.wf = true) {n : Nat} (hn : n ≤ 65536) {i : Nat}
    (hi : i < n) :
    (copyByte^[n] s).mem.read (s.main.de + BitVec.ofNat 16 i) =
      s.mem.read (s.main.hl + BitVec.ofNat 16 (i % copyDistance s)) := by
  induction n generalizing i with
  | zero => omega
  | succ n ih =>
    have ih {j : Nat} (hj : j < n) := @ih (Nat.le_of_succ_le hn) j hj
    rw [iterate_copyByte_succ_mem]
    rcases Nat.lt_succ_iff_lt_or_eq.1 hi with hlt | rfl
    · rw [Memory.read_write_other (wf_iterate_copyByte n hs) _ (add_ofNat_ne_of_lt _ hlt hn), ih hlt]
    · rw [Memory.read_write_same (wf_iterate_copyByte i hs)]
      by_cases hk : copyDistance s = 0 ∨ i < copyDistance s
      · have hmod : i % copyDistance s = i := by
          rcases hk with hk | hk
          · rw [hk, Nat.mod_zero]
          · exact Nat.mod_eq_of_lt hk
        rw [hmod, read_iterate_copyByte_outside hs fun j hj => source_ne_destination hj hn hk]
      · obtain ⟨hpos, hle⟩ := not_or.1 hk
        have hsource : s.main.hl + BitVec.ofNat 16 i =
            s.main.de + BitVec.ofNat 16 (i - copyDistance s) := by
          rw [de_add_eq, Nat.add_sub_of_le (Nat.le_of_not_lt hle)]
        rw [hsource, ih (by omega), ← Nat.mod_eq_sub_mod (Nat.le_of_not_lt hle)]

/-! ### The whole loop -/

theorem read_blockCopy_outside {s : State} (hs : s.mem.wf = true) {a : Word}
    (ha : ∀ i, i < copyCount s.main.bc → a ≠ s.main.de + BitVec.ofNat 16 i) :
    (blockCopy s).mem.read a = s.mem.read a := by
  rw [blockCopy_eq_iterate, read_iterate_copyByte_outside hs ha]

theorem blockCopy_mem_of_de_eq_hl {s : State} (hs : s.mem.wf = true) (h : s.main.de = s.main.hl) :
    (blockCopy s).mem = s.mem := by
  rw [blockCopy_eq_iterate, iterate_copyByte_mem_of_de_eq_hl hs h]

theorem read_blockCopy {s : State} (hs : s.mem.wf = true) {i : Nat} (hi : i < copyCount s.main.bc) :
    (blockCopy s).mem.read (s.main.de + BitVec.ofNat 16 i) =
      s.mem.read (s.main.hl + BitVec.ofNat 16 (i % copyDistance s)) := by
  rw [blockCopy_eq_iterate, read_iterate_copyByte hs (copyCount_le _) hi]

/-- R103: the index of the source has no need of `mod` where the regions do not overlap forward. -/
theorem mod_copyDistance (s : State) {n i : Nat} (hi : i < n) :
    i % copyDistance s =
      if s.main.de = s.main.hl ∨ n ≤ copyDistance s then i else i % copyDistance s := by
  split
  · next h =>
    rcases h with h | h
    · have hk : copyDistance s = 0 := by simp [copyDistance, h]
      rw [hk, Nat.mod_zero]
    · exact Nat.mod_eq_of_lt (Nat.lt_of_lt_of_le hi h)
  · rfl

end Sys2Proof.Machine
end

section
/-! SUPPORT. The block copy as one instruction and as one step (45_block_copy.md R99, R100, R102, R104). -/

namespace Sys2Proof.Machine

/-- R100: the test at the bottom ends the loop. -/
theorem blockCopy_of_last {s : State} (h : (copyByte s).main.bc = 0) : blockCopy s = copyByte s := by
  rw [blockCopy_eq_iterate, copyCount_last h]
  rfl

/-- R100: where the test at the bottom fails, the loop goes on from the state of the iteration. -/
theorem blockCopy_of_not_last {s : State} (h : (copyByte s).main.bc ≠ 0) :
    blockCopy s = blockCopy (copyByte s) := by
  rw [blockCopy_eq_iterate, blockCopy_eq_iterate (copyByte s), copyCount_pred h,
    Function.iterate_succ_apply]
  rfl

/-- R102: the loop and the clearing of flag H change different registers. -/
theorem blockCopy_setFlag_main (s : State) :
    ((blockCopy s).setFlag .H false).main =
      { (s.setFlag .H false).main with
        hl := s.main.hl + s.main.bc, de := s.main.de + s.main.bc, bc := 0 } := by
  simp [State.flagPos, blockCopy_main, RegisterSet.setPair]

/-- R20: the clearing of a flag, in the spec's terms. -/
theorem State.setFlag_false_af (s : State) (x : Flag) :
    (s.setFlag x false).main.af = s.main.af &&& ~~~((1 : Word) <<< s.flagPos x) := by
  simp [putBit]

/-- R19: a flag is a function of AF and the layout. -/
theorem State.getFlag_congr {s t : State} (haf : t.main.af = s.main.af)
    (hl : t.flagLayout = s.flagLayout) (x : Flag) : t.getFlag x = s.getFlag x := by
  unfold State.getFlag State.flagPos
  rw [State.flagByte_congr haf, hl]

/-- R55: the bytes `ED B0` at `pc`. -/
theorem State.fetchInstr_eq_ldir {s : State} (h0 : s.memRead s.pc = 0xED)
    (h1 : s.memRead (s.pc + 1) = 0xB0) : s.fetchInstr = .ok .ldir := by
  unfold State.fetchInstr
  rw [h0, h1, decodeBytes_ED, if_pos rfl]

end Sys2Proof.Machine
end

section
/-! SUPPORT. The statements on the block copy, settled (45_block_copy.md R99 to R105). -/

namespace Sys2Proof.Machine

/-- Settles O44: the two outcomes of the loop's test, `blockCopy_of_last` and `blockCopy_of_not_last`. -/
theorem blockCopyRepeatsUntilTheCounterIsZero :
    Obligations.BlockCopyRepeatsUntilTheCounterIsZero := by
  unfold Obligations.BlockCopyRepeatsUntilTheCounterIsZero
  rintro s once rfl
  refine ⟨fun h => ?_, fun h => ?_⟩
  · rw [exec_ldir, blockCopy_of_last h]
    rfl
  · rw [exec_ldir, blockCopy_of_not_last h]
    rfl

/-- Settles O45: the registers on exit from the loop, of which the flag write changes AF's low byte. -/
theorem blockCopyFinalRegisters : Obligations.BlockCopyFinalRegisters := by
  unfold Obligations.BlockCopyFinalRegisters
  intro s
  have hA : hiByte (s.setFlag .H false).main.af = hiByte s.main.af :=
    hiByte_putBit false s.main.af (s.flagPos_lt .H)
  refine ⟨_, exec_ldir s, ?_⟩
  rw [ofNat_copyCount, State.advancePc_main, blockCopy_setFlag_main]
  exact ⟨rfl, rfl, rfl, by simp, hA, rfl, rfl, by simp, by simp, by simp, by simp⟩

/-- Settles O46: to AF the block copy does what the clearing of flag H does. -/
theorem blockCopyClearsTheHalfCarryFlagOnly : Obligations.BlockCopyClearsTheHalfCarryFlagOnly := by
  unfold Obligations.BlockCopyClearsTheHalfCarryFlagOnly
  intro s
  refine ⟨_, exec_ldir s, ?_⟩
  have haf : (((blockCopy s).setFlag .H false).advancePc 2).main.af =
      (s.setFlag .H false).main.af := by
    rw [State.advancePc_main, blockCopy_setFlag_main]
  have hflag := State.getFlag_congr haf (by simp)
  refine ⟨haf.trans (s.setFlag_false_af .H), ?_, fun i hi => ?_, fun hl x hx => ?_, fun hl => ?_⟩
  · rw [hflag, State.getFlag_setFlag_same]
  · rw [haf, State.getLsbD_setFlag_af, if_neg hi]
  · rw [hflag, State.getFlag_setFlag_other s false hl hx]
  · have hmask : ~~~((1 : Word) <<< s.flagPos .H) = 0xFFEF := by
      unfold State.flagPos
      rw [hl]
      rfl
    rw [haf, State.setFlag_false_af, hmask]

/-- Settles O47: the flag write and the advance of `pc` leave memory to the loop. -/
theorem blockCopyWritesItsDestinationOnly : Obligations.BlockCopyWritesItsDestinationOnly := by
  unfold Obligations.BlockCopyWritesItsDestinationOnly
  intro s hs
  exact ⟨_, exec_ldir s, fun a ha => read_blockCopy_outside hs ha⟩

/-- Settles O48: one closed form, `i mod k`, for every distance `k`, which the statement's cases share. -/
theorem blockCopyMemoryClosedForm : Obligations.BlockCopyMemoryClosedForm := by
  unfold Obligations.BlockCopyMemoryClosedForm
  intro s hs
  refine ⟨_, exec_ldir s, fun i hi => ?_, blockCopy_mem_of_de_eq_hl hs⟩
  exact (read_blockCopy hs hi).trans
    (congrArg (fun j => s.memRead (s.main.hl + BitVec.ofNat 16 j)) (mod_copyDistance s hi))

/-- Settles O49: the closed forms of the registers and of memory at a count of 65536, which is zero
modulo 65536. -/
theorem blockCopyWithCounterZeroCoversMemory : Obligations.BlockCopyWithCounterZeroCoversMemory := by
  unfold Obligations.BlockCopyWithCounterZeroCoversMemory
  intro s hs hbc
  have hcount : copyCount s.main.bc = 65536 := if_pos hbc
  refine ⟨_, exec_ldir s, ?_, ?_, ?_, blockCopy_mem_of_de_eq_hl hs,
    fun _ i hi => read_blockCopy hs (hcount ▸ hi)⟩ <;>
    rw [State.advancePc_main, blockCopy_setFlag_main, hbc]
  · exact s.main.hl.add_zero
  · exact s.main.de.add_zero

/-- Settles O50: `pc` and the status are those of any step but the halt's, and the registers those of the
finished loop. -/
theorem blockCopyCompletesInOneStepOverItself : Obligations.BlockCopyCompletesInOneStepOverItself := by
  unfold Obligations.BlockCopyCompletesInOneStepOverItself
  intro s hs h0 h1
  have hf := State.fetchInstr_eq_ldir h0 h1
  have hstep := step_of_exec hs hf (exec_ldir _)
  refine ⟨_, hstep, step_status_of_ne_halt (by simp) hf hstep, step_pc hf hstep, ?_⟩
  rw [State.endDispatch_main, State.advancePc_main, blockCopy_setFlag_main]
  simp

end Sys2Proof.Machine
end

section
/-! SUPPORT. The step outside Fetching, status by status (40_sequencer.md R61, log entry 3). -/

namespace Sys2Proof.Machine

variable {s : State}

theorem step_of_idle (hs : s.status = .idle) : step s = .fault .awaitingRun := by
  unfold step
  rw [hs]

theorem step_of_dispatching (hs : s.status = .dispatching) : step s = .fault .handlerRunning := by
  unfold step
  rw [hs]

theorem step_of_halted (hs : s.status = .halted) : step s = .fault .runEnded := by
  unfold step
  rw [hs]

theorem step_of_faulted (hs : s.status = .faulted) : step s = .fault .stuckInFaulted := by
  unfold step
  rw [hs]

end Sys2Proof.Machine
end

section
/-! SUPPORT. The halt as a list of bytes, and the bytes that `encode` gives the immediate loads
(30_encoding.md R45, R46, R49, R50; 46_halt.md R107). -/

namespace Sys2Proof

/-- R46, R107: the halt is the byte `76`; nothing behind it counts. -/
theorem decode_halt (rest : List Byte) : decode (0x76 :: rest) = .ok (.halt, rest) :=
  decode_of_decodeBytes (decodeBytes_eq_halt.2 rfl) (Nat.le_add_left 1 rest.length)

/-- R46, R50: the opcode, then the immediate. -/
theorem encode_load8 (r : Reg8) (n : Byte) :
    encode (.load8 r n) = [0b00#2 ++ r.index ++ 0b110#3, n] :=
  congrArg Form.bytes (Instr.form_load8 r n)

/-- R46, R49: the opcode, then the immediate, its low byte first. -/
theorem encode_load16 (d : Dest16) (nn : Word) :
    encode (.load16 d nn) = [0b00#2 ++ d.selector ++ 0b0001#4, loByte nn, hiByte nn] :=
  congrArg Form.bytes (Instr.form_load16 d nn)

/-- R50: whatever the byte behind the opcode, it is the immediate. -/
theorem decode_encode_load8 (r : Reg8) (n : Byte) :
    decode (encode (.load8 r n)) = .ok (.load8 r n, []) := by
  rw [encode_load8, decode_load8]

/-- R49: whatever the two bytes behind the opcode, they are the immediate. -/
theorem decode_encode_load16 (d : Dest16) (nn : Word) :
    decode (encode (.load16 d nn)) = .ok (.load16 d nn, []) := by
  rw [encode_load16, decode_load16, joinBytes_hiByte_loByte]

end Sys2Proof
end

section
/-! SUPPORT. The statements on the halt and on the stops outside Fetching, settled (46_halt.md R107, R108). -/

namespace Sys2Proof.Machine

/-- Settles O20, status by status. -/
theorem stepStopsByNameOutsideFetching : Obligations.StepStopsByNameOutsideFetching := by
  unfold Obligations.StepStopsByNameOutsideFetching
  exact fun s => ⟨step_of_idle, step_of_dispatching, step_of_halted, step_of_faulted⟩

/-- Settles O43: `76` is the halt as a first byte only; behind `ED` it is not the one byte that decodes
there, and behind a load's opcode it is the immediate, as any byte is. -/
theorem haltChangesOnlyTheStatus : Obligations.HaltChangesOnlyTheStatus := by
  unfold Obligations.HaltChangesOnlyTheStatus
  refine ⟨decode_halt [], exec_halt, fun b2 => ?_, fun r => decode_encode_load8 r 0x76,
    fun d => decode_encode_load16 d 0x7676⟩
  rw [decodeBytes_ED, if_neg (by decide)]

end Sys2Proof.Machine
end

section
/-! SUPPORT. The two answers of `load` where the host may act, and the statement on its bound, settled
(60_exceptions.md R111; 70_reset_and_hazards.md R127). -/

namespace Sys2Proof.Machine

variable {s : State} {address : Word} {bytes : List Byte}

/-- R111: the range ends past the last address, so no byte is written. -/
theorem hostLoad_of_memSize_lt (hs : s.status.hostMayAct = true)
    (hlt : Config.memSize < address.toNat + bytes.length) :
    hostLoad address bytes s = (.overflow, s) := by
  unfold hostLoad
  rw [if_pos hs, if_pos hlt]

/-- R127: the range ends at the last address or before it, so every byte is written. -/
theorem hostLoad_of_le_memSize (hs : s.status.hostMayAct = true)
    (hle : address.toNat + bytes.length ≤ Config.memSize) :
    hostLoad address bytes s = (.ok, { s with mem := s.mem.writeBytes address bytes }) := by
  unfold hostLoad
  rw [if_pos hs, if_neg (Nat.not_lt.2 hle)]

/-- Settles O51: the sum is a natural number, so it does not wrap, and the bound is the memory's size. -/
theorem loadOverflowsExactlyPastTheLastAddress :
    Obligations.LoadOverflowsExactlyPastTheLastAddress := by
  unfold Obligations.LoadOverflowsExactlyPastTheLastAddress
  exact fun _ _ _ hs => ⟨hostLoad_of_memSize_lt hs,
    fun hle => congrArg Prod.fst (hostLoad_of_le_memSize hs hle)⟩

end Sys2Proof.Machine
end

section
/-! SUPPORT. Instructions as bytes, there and back (30_encoding.md R45, R46, R51, R52): the bytes that
`encode` gives the classes without an immediate, and the form of three bytes as those bytes. -/

namespace Sys2Proof

variable {op b1 b2 : Byte} {f : Form}

/-! ### From an instruction to its bytes and back -/

/-- R46, R83: the one byte with the indices of both registers. -/
theorem encode_transfer (r r' : Reg8) :
    encode (.transfer r r') = [0b01#2 ++ r.index ++ r'.index] :=
  congrArg Form.bytes (Instr.form_transfer r r')

/-- R46, R91: the one byte with the destination's index. -/
theorem encode_loadAtHL (r : Reg8) : encode (.loadAtHL r) = [0b01#2 ++ r.index ++ 0b110#3] :=
  congrArg Form.bytes (Instr.form_loadAtHL r)

/-- R46, R55: the block copy is the bytes `ED B0`; nothing behind them counts. -/
theorem decode_ldir (rest : List Byte) : decode (0xED :: 0xB0 :: rest) = .ok (.ldir, rest) :=
  decode_of_decodeBytes (rest := 0xB0 :: rest) ((decodeBytes_ED 0xB0 _).trans (if_pos rfl))
    (Nat.le_add_left 2 rest.length)

/-! ### From bytes to their form and back -/

/-- R46, R48: an opcode is its three fields, the low one of four bits. -/
theorem fields_two_two_four (op : Byte) :
    op.extractLsb' 6 2 ++ op.extractLsb' 4 2 ++ op.extractLsb' 0 4 = op := by
  rw [BitVec.extractLsb'_append_extractLsb'_eq_extractLsb' (show 6 = 4 + 2 from rfl),
    BitVec.extractLsb'_append_extractLsb'_eq_extractLsb' (show 4 = 0 + 4 from rfl)]
  exact BitVec.extractLsb'_eq_self

/-- R46, R47: an opcode is its three fields, the low one of three bits. -/
theorem fields_two_three_three (op : Byte) :
    op.extractLsb' 6 2 ++ op.extractLsb' 3 3 ++ op.extractLsb' 0 3 = op := by
  rw [BitVec.extractLsb'_append_extractLsb'_eq_extractLsb' (show 6 = 3 + 3 from rfl),
    BitVec.extractLsb'_append_extractLsb'_eq_extractLsb' (show 3 = 0 + 3 from rfl)]
  exact BitVec.extractLsb'_eq_self

/-- R46, R52: the test that finds a form fixes the bits of the opcode that its fields leave out, so the
form has all bits of its bytes. -/
theorem Form.bytes_of_ofBytes (h : Form.ofBytes op b1 b2 = some f) :
    f.bytes = [op, b1, b2].take f.length := by
  have h4 := fields_two_two_four op
  have h3 := fields_two_three_three op
  unfold Form.ofBytes at h
  split_ifs at h with hhalt hED hdd hri hrr hrm <;> obtain rfl := Option.some.inj h
  · rw [hhalt]
    rfl
  · rw [hED]
    rfl
  · rw [hdd.1, hdd.2] at h4
    simp only [Form.bytes, loByte_joinBytes, hiByte_joinBytes]
    exact congrArg ([·, b1, b2]) h4
  · rw [hri.1, hri.2] at h3
    exact congrArg ([·, b1]) h3
  · rw [hrr.1] at h3
    exact congrArg ([·]) h3
  · rw [hrm.1, hrm.2] at h3
    exact congrArg ([·]) h3

end Sys2Proof
end

section
/-! SUPPORT. The statements on the encoder and the decoder as inverses, settled (30_encoding.md sections 1 to
3). -/

namespace Sys2Proof.Machine

/-- Settles O11, class by class: the fixed bits of a class and the indices of its registers are read
back as that class and those registers. -/
theorem decodeOfEncodeIsTheInstruction : Obligations.DecodeOfEncodeIsTheInstruction := by
  unfold Obligations.DecodeOfEncodeIsTheInstruction
  intro i rest
  rcases i.class_cases with ⟨d, nn, rfl⟩ | ⟨r, n, rfl⟩ | ⟨r, r', rfl⟩ | ⟨r, rfl⟩ | rfl | rfl
  · have h := decode_load16 d (loByte nn) (hiByte nn) rest
    rw [joinBytes_hiByte_loByte] at h
    rw [encode_load16]
    exact h
  · rw [encode_load8]
    exact decode_load8 r n rest
  · rw [encode_transfer]
    exact decode_transfer r r' rest
  · rw [encode_loadAtHL]
    exact decode_loadAtHL r rest
  · exact decode_ldir rest
  · exact decode_halt rest

/-- Settles O12: an instruction has the form of the bytes it is decoded from, and that form has all
their bits. -/
theorem encodeOfDecodedBytesIsThoseBytes : Obligations.EncodeOfDecodedBytesIsThoseBytes := by
  unfold Obligations.EncodeOfDecodedBytesIsThoseBytes
  intro op b1 b2 i h
  exact Form.bytes_of_ofBytes (decodeBytes_eq_ok.1 h)

end Sys2Proof.Machine
end

section
/-! SUPPORT. The decoder's failures (30_encoding.md R53, R55, 92_eei_decisions.md D5): which bytes are no
instruction, said of the bytes and not of the decoder. -/

namespace Sys2Proof

variable {op b1 b2 : Byte} {u : UnknownOpcode}

/-- R53: of the 255 first bytes other than `ED`, those that are no instruction with zeros behind them are
the listed ones. A table of bytes, so compared byte by byte. -/
theorem isOk_decodeBytes_zeros :
    ∀ op : Byte, op ≠ 0xED → (decodeBytes op 0 0).isOk = !Machine.unrecognizedFirstByte op := by
  decide

/-- R53, R59: a first byte that is not listed is that of an instruction, whatever stands behind it. -/
theorem decodeBytes_ok_of_recognized (hop : op ≠ 0xED)
    (hu : Machine.unrecognizedFirstByte op = false) (b1 b2 : Byte) :
    ∃ i, decodeBytes op b1 b2 = .ok i := by
  have hzeros := isOk_decodeBytes_zeros op hop
  cases h : decodeBytes op 0 0 with
  | ok i => exact decodeBytes_ok_withBytesBehind b1 b2 hop h
  | error u =>
    rw [h, hu] at hzeros
    exact absurd hzeros Bool.false_ne_true

/-- R53, R59: a listed first byte fails, whatever stands behind it. -/
theorem decodeBytes_error_of_unrecognized (hop : op ≠ 0xED)
    (hu : Machine.unrecognizedFirstByte op = true) (b1 b2 : Byte) :
    decodeBytes op b1 b2 = .error (.firstByte op) := by
  have hzeros := isOk_decodeBytes_zeros op hop
  cases h : decodeBytes op 0 0 with
  | ok i =>
    rw [h, hu] at hzeros
    exact absurd hzeros.symm Bool.false_ne_true
  | error u =>
    rw [decodeBytes_error_withBytesBehind b1 b2 hop h, decodeBytes_error hop h]

/-- R53, R110: the two ways a decode fails. -/
theorem decodeBytes_eq_error :
    decodeBytes op b1 b2 = .error u ↔
      (op ≠ 0xED ∧ Machine.unrecognizedFirstByte op = true ∧ u = .firstByte op) ∨
        (op = 0xED ∧ b1 ≠ 0xB0 ∧ u = .secondByte b1) := by
  constructor
  · intro h
    by_cases hop : op = 0xED
    · subst hop
      rw [decodeBytes_ED] at h
      split at h
      · exact absurd h (by simp)
      · next hb => exact .inr ⟨rfl, hb, (Except.error.inj h).symm⟩
    · refine .inl ⟨hop, ?_, decodeBytes_error hop h⟩
      cases hu : Machine.unrecognizedFirstByte op with
      | true => rfl
      | false =>
        obtain ⟨i, hi⟩ := decodeBytes_ok_of_recognized hop hu b1 b2
        exact absurd (h.symm.trans hi) (by simp)
  · rintro (⟨hop, hu, rfl⟩ | ⟨rfl, hb, rfl⟩)
    · exact decodeBytes_error_of_unrecognized hop hu b1 b2
    · rw [decodeBytes_ED, if_neg hb]

end Sys2Proof
end

section
/-! SUPPORT. The statements on the decoder's failures, on the register tables and on words written out from
the encoding tables, settled (10_state.md R14; 30_encoding.md R48, R53 and section 6). -/

namespace Sys2Proof.Machine

/-- Settles O13: whether a first byte but `ED` fails does not depend on the bytes behind it, and with
zeros there the failing ones are those of the list. -/
theorem firstBytesRejectedAreTheListedOnes : Obligations.FirstBytesRejectedAreTheListedOnes := by
  unfold Obligations.FirstBytesRejectedAreTheListedOnes
  intro op b1 b2 hop
  refine ⟨⟨fun h => ?_, fun hu => decodeBytes_error_of_unrecognized hop hu b1 b2⟩,
    fun hu => decodeBytes_ok_of_recognized hop hu b1 b2⟩
  obtain ⟨-, hu, -⟩ | ⟨hED, -, -⟩ := decodeBytes_eq_error.1 h
  · exact hu
  · exact absurd hED hop

/-- Settles O5: both tables, row by row. -/
theorem registerIndexTable : Obligations.RegisterIndexTable := by
  unfold Obligations.RegisterIndexTable
  exact ⟨rfl, rfl⟩

/-- Settles O10: each word is its class's bytes at the registers and the immediate it names. -/
theorem decodeOfWordsFromTheEncodingTables : Obligations.DecodeOfWordsFromTheEncodingTables := by
  unfold Obligations.DecodeOfWordsFromTheEncodingTables
  exact ⟨decode_load16 .HL 0x34 0x12 [0x11], decode_load16 .DE 0x67 0x45 [0x01],
    decode_load16 .BC 0x04 0x00 [0xED], decode_ldir [0x76], decode_halt [],
    decode_load16 .SP 0xFE 0xFF [], decode_load8 .A 0x76 [], decode_transfer .A .B [],
    decode_transfer .B .A [], decode_loadAtHL .L []⟩

end Sys2Proof.Machine
end

section
/-! SUPPORT. The step in terms of `exec` alone (40_sequencer.md R60, R61): no meaning reads the status, so
the passage through Dispatching leaves no trace, and every meaning answers a next state. -/

namespace Sys2Proof.Machine

variable {s t : State} {i : Instr}

/-- R64: every instruction's meaning answers a next state, at every state. -/
theorem exec_answers_next (i : Instr) (s : State) : ∃ t, exec i s = .next t := by
  rcases i.class_cases with ⟨d, nn, rfl⟩ | ⟨r, n, rfl⟩ | ⟨r, r', rfl⟩ | ⟨r, rfl⟩ | rfl | rfl
  · exact ⟨_, exec_load16 d nn s⟩
  · exact ⟨_, exec_load8 r n s⟩
  · exact ⟨_, exec_transfer r r' s⟩
  · exact ⟨_, exec_loadAtHL r s⟩
  · exact ⟨_, exec_ldir s⟩
  · exact ⟨_, exec_halt s⟩

/-! ### No meaning reads the status -/

theorem State.writeDest16_withStatus (s : State) (d : Dest16) (v : Word) (st : Status) :
    (s.withStatus st).writeDest16 d v = (s.writeDest16 d v).withStatus st := by cases d <;> rfl

theorem blockCopy_withStatus (s : State) (st : Status) :
    blockCopy (s.withStatus st) = (blockCopy s).withStatus st := by
  have hbyte : Function.Semiconj (·.withStatus st) copyByte copyByte := fun _ => rfl
  rw [blockCopy_eq_iterate, blockCopy_eq_iterate]
  exact (hbyte.iterate_right _ s).symm

/-- R60: an instruction but the halt does the same in every status. -/
theorem exec_withStatus (hi : i ≠ .halt) (h : exec i s = .next t) (st : Status) :
    exec i (s.withStatus st) = .next (t.withStatus st) := by
  obtain ⟨d, nn, rfl, rfl⟩ | ⟨r, n, rfl, rfl⟩ | ⟨r, r', rfl, rfl⟩ | ⟨r, rfl, rfl⟩ | ⟨rfl, rfl⟩ |
    ⟨rfl, -⟩ := exec_cases h
  · rw [exec_load16, State.writeDest16_withStatus]
    rfl
  · exact exec_load8 r n _
  · exact exec_transfer r r' _
  · exact exec_loadAtHL r _
  · rw [exec_ldir, blockCopy_withStatus]
    rfl
  · exact absurd rfl hi

/-! ### The step -/

/-- R60: Dispatching ends in Fetching, whatever the handler did. -/
theorem State.endDispatch_withStatus_dispatching (hs : s.status = .fetching) :
    (s.withStatus .dispatching).endDispatch = s :=
  congrArg (fun st => { s with status := st }) hs.symm

/-- R61: at an instruction, a step is the instruction's meaning. -/
theorem step_eq_exec (hs : s.status = .fetching) (hf : s.fetchInstr = .ok i) :
    step s = exec i s := by
  obtain ⟨t, ht⟩ := exec_answers_next i s
  by_cases hi : i = .halt
  · subst hi
    exact (step_of_exec hs hf (exec_halt s)).trans rfl
  · have hdispatch : exec i (s.beginDispatch i) = .next (t.withStatus .dispatching) := by
      rw [beginDispatch_of_ne_halt hi, exec_withStatus hi ht]
    have hstatus : t.status = .fetching := (exec_keeps_status hi ht).trans hs
    rw [step_of_exec hs hf hdispatch, State.endDispatch_withStatus_dispatching hstatus, ht]

/-- R61: what a step that answers a next state does: at bytes that are no instruction it rejects them, and
otherwise it is the meaning of the instruction. -/
theorem step_cases_exec (h : step s = .next t) :
    (∃ u, s.fetchInstr = .error u ∧ t = s.rejectOpcode u) ∨
      ∃ i, s.fetchInstr = .ok i ∧ exec i s = .next t := by
  obtain ⟨hs, ⟨u, hu, ht⟩ | ⟨i, -, hf, -, -⟩⟩ := step_cases h
  · exact .inl ⟨u, hu, ht⟩
  · exact .inr ⟨i, hf, (step_eq_exec hs hf).symm.trans h⟩

/-- R61: in Fetching no access, register or handler stops a step. -/
theorem step_answers_next (hs : s.status = .fetching) : ∃ t, step s = .next t := by
  cases hf : s.fetchInstr with
  | error u => exact ⟨_, step_of_unknown hs hf⟩
  | ok i =>
    rw [step_eq_exec hs hf]
    exact exec_answers_next i s

/-! ### What a step keeps -/

/-- R23, log entry 27: no meaning touches the fault record or the layout of the flags. -/
theorem exec_keeps_faultRecord_flagLayout (h : exec i s = .next t) :
    t.faultRecord = s.faultRecord ∧ t.flagLayout = s.flagLayout := by
  obtain ⟨d, nn, -, rfl⟩ | ⟨r, n, -, rfl⟩ | ⟨r, r', -, rfl⟩ | ⟨r, -, rfl⟩ | ⟨-, rfl⟩ | ⟨-, rfl⟩ :=
    exec_cases h
  · simp
  · simp
  · simp
  · simp
  · simp
  · simp

/-- 20_memory.md section 7: no instruction but LDIR stores anything. -/
theorem exec_keeps_mem (hi : i ≠ .ldir) (h : exec i s = .next t) : t.mem = s.mem := by
  obtain ⟨d, nn, -, rfl⟩ | ⟨r, n, -, rfl⟩ | ⟨r, r', -, rfl⟩ | ⟨r, -, rfl⟩ | ⟨hldir, -⟩ | ⟨-, rfl⟩ :=
    exec_cases h
  · simp
  · simp
  · simp
  · simp
  · exact absurd hldir hi
  · simp

theorem exec_keeps_wf (hs : s.mem.wf = true) (h : exec i s = .next t) : t.mem.wf = true := by
  by_cases hi : i = .ldir
  · subst hi
    obtain rfl := Host.Outcome.next.inj h
    exact wf_blockCopy hs
  · rw [exec_keeps_mem hi h, hs]

theorem step_keeps_mem (hs : s.fetchInstr ≠ .ok .ldir) (h : step s = .next t) : t.mem = s.mem := by
  obtain ⟨u, -, rfl⟩ | ⟨i, hf, he⟩ := step_cases_exec h
  · exact s.rejectOpcode_mem u
  · exact exec_keeps_mem (fun hi => hs (hi ▸ hf)) he

theorem step_keeps_wf (hs : s.mem.wf = true) (h : step s = .next t) : t.mem.wf = true := by
  obtain ⟨u, -, rfl⟩ | ⟨i, -, he⟩ := step_cases_exec h
  · rw [State.rejectOpcode_mem, hs]
  · exact exec_keeps_wf hs he

theorem step_keeps_flagLayout (h : step s = .next t) : t.flagLayout = s.flagLayout := by
  obtain ⟨u, -, rfl⟩ | ⟨i, -, he⟩ := step_cases_exec h
  · exact s.rejectOpcode_flagLayout u
  · exact (exec_keeps_faultRecord_flagLayout he).2

/-- R21: the flag byte is zero where it was zero, since a step at most clears a bit of it. -/
theorem step_keeps_flagByte_zero (hs : s.flagByte = 0) (h : step s = .next t) :
    t.flagByte = 0 := by
  by_cases hf : s.fetchInstr = .ok .ldir
  · rw [step_ldir_flagByte hf h, State.flagByte_setFlag_false_eq_zero .H hs]
  · rw [step_keeps_flagByte hf h, hs]

end Sys2Proof.Machine
end

section
/-! SUPPORT. The invariant of a state between two steps (`State.Inv`), kept by a rejection, by every meaning in
Fetching, and so by every step (10_state.md R23; 40_sequencer.md R60; 60_exceptions.md R110, R116). -/

namespace Sys2Proof.Machine

variable {s t : State} {i : Instr}

/-- R110: the record of a decode failure is of the one kind. -/
theorem State.rejectOpcode_faultRecord (s : State) (u : UnknownOpcode) :
    ∃ r, (s.rejectOpcode u).faultRecord = some r ∧ r.kind = .unknownOpcode := by
  cases u with
  | firstByte op => exact ⟨_, rfl, rfl⟩
  | secondByte op2 => exact ⟨_, rfl, rfl⟩

/-- R110, R116: what a rejection changes keeps the invariant, since it sets the status with the record. -/
theorem rejectOpcode_keeps_inv (hs : s.Inv) (u : UnknownOpcode) : (s.rejectOpcode u).Inv where
  memory := by rw [State.rejectOpcode_mem, hs.memory]
  recordInFaulted := by
    obtain ⟨r, hr, -⟩ := s.rejectOpcode_faultRecord u
    rw [hr, State.rejectOpcode_status]
    rfl
  recordKind := by
    obtain ⟨r, hr, hkind⟩ := s.rejectOpcode_faultRecord u
    intro r' hr'
    obtain rfl : r = r' := Option.some.inj (hr.symm.trans hr')
    exact hkind
  betweenSteps := by
    rw [State.rejectOpcode_status]
    exact Status.noConfusion
  distinctFlags := by rw [State.rejectOpcode_flagLayout, hs.distinctFlags]

/-- Outside Faulted the invariant leaves no record. -/
theorem State.Inv.faultRecord_eq_none (hs : s.Inv) (hst : s.status ≠ .faulted) :
    s.faultRecord = none :=
  Option.not_isSome_iff_eq_none.1 (by simp [hs.recordInFaulted, hst])

/-- R60: an instruction in Fetching ends in Halted or in Fetching. -/
theorem exec_status_of_fetching (hs : s.status = .fetching) (h : exec i s = .next t) :
    t.status = .halted ∨ t.status = .fetching := by
  by_cases hi : i = .halt
  · subst hi
    obtain rfl := Host.Outcome.next.inj h
    exact .inl rfl
  · exact .inr ((exec_keeps_status hi h).trans hs)

/-- R60: the meaning of an instruction keeps the invariant in Fetching, where there is no record. -/
theorem exec_keeps_inv (hs : s.Inv) (hfetching : s.status = .fetching)
    (h : exec i s = .next t) : t.Inv := by
  obtain ⟨hrecord, hlayout⟩ := exec_keeps_faultRecord_flagLayout h
  rw [hs.faultRecord_eq_none (by simp [hfetching])] at hrecord
  have hstatus := exec_status_of_fetching hfetching h
  exact
    { memory := exec_keeps_wf hs.memory h
      recordInFaulted := by rcases hstatus with hst | hst <;> rw [hrecord, hst] <;> rfl
      recordKind := by simp [hrecord]
      betweenSteps := by rcases hstatus with hst | hst <;> simp [hst]
      distinctFlags := by rw [hlayout, hs.distinctFlags] }

theorem step_keeps_inv (hs : s.Inv) (h : step s = .next t) : t.Inv := by
  obtain ⟨u, -, rfl⟩ | ⟨i, -, he⟩ := step_cases_exec h
  · exact rejectOpcode_keeps_inv hs u
  · exact exec_keeps_inv hs (step_cases h).1 he

end Sys2Proof.Machine
end

section
/-! SUPPORT. The alternate set and IDX (10_state.md R15, R18): no pair holds them, so every step commutes
with an update of them, and keeps them. -/

namespace Sys2Proof.Machine

variable {s t : State}

/-- R15: the register set with another value in IDX. -/
def RegisterSet.setIdx (r : RegisterSet) (v : Word) : RegisterSet := { r with idx := v }

theorem unseenByPairs_setIdx (v : Word) : UnseenByPairs (·.setIdx v) where
  getPair := fun _ p => by cases p <;> rfl
  setPair := fun _ p _ => by cases p <;> rfl

/-- R15, R18: the state with another alternate set and another value in IDX. -/
def State.setInert (s : State) (alt : RegisterSet) (idx : Word) : State :=
  s.mapRegisters (·.setIdx idx) fun _ => alt

theorem State.setInert_self (s : State) : s.setInert s.alt s.main.idx = s := rfl

/-- R74: a write of SP does not see IDX either, so no instruction is an exception. -/
theorem exec_setInert (i : Instr) (s : State) (alt : RegisterSet) (idx : Word) :
    ∃ t, exec i s = .next t ∧ exec i (s.setInert alt idx) = .next (t.setInert alt idx) := by
  by_cases hi : ∃ nn, i = .ldSP_nn nn
  · obtain ⟨nn, rfl⟩ := hi
    exact ⟨_, exec_load16 .SP nn s, exec_load16 .SP nn _⟩
  · exact exec_mapRegisters (unseenByPairs_setIdx idx) (not_exists.1 hi) s

/-- Other values in the alternate set and IDX change nothing of a step but those values. -/
theorem step_setInert (s : State) (alt : RegisterSet) (idx : Word) :
    (∃ r, step s = .fault r ∧ step (s.setInert alt idx) = .fault r) ∨
      ∃ t, step s = .next t ∧ step (s.setInert alt idx) = .next (t.setInert alt idx) :=
  step_mapRegisters_of_exec s fun i _ => exec_setInert i (s.beginDispatch i) alt idx

/-- A step keeps the alternate set and IDX: writing the old values before it, which changes nothing, is
writing them after it. -/
theorem step_keeps_alt_idx (h : step s = .next t) :
    t.alt = s.alt ∧ t.main.idx = s.main.idx := by
  obtain ⟨r, hfault, -⟩ | ⟨t', ht, hset⟩ := step_setInert s s.alt s.main.idx
  · exact absurd (hfault.symm.trans h) (by simp)
  · obtain rfl : t' = t := Host.Outcome.next.inj (ht.symm.trans h)
    rw [State.setInert_self, h] at hset
    have hself : t' = t'.setInert s.alt s.main.idx := Host.Outcome.next.inj hset
    refine ⟨?_, ?_⟩ <;> rw [hself] <;> rfl

end Sys2Proof.Machine
end

section
/-! SUPPORT. The statements on the step, settled (40_sequencer.md R60, R61; 10_state.md R15, R18; 20_memory.md
section 7; 60_exceptions.md R110, R116). -/

namespace Sys2Proof.Machine

/-- Settles O25: a rejection sets the record with the status, and a meaning touches neither the record nor
the layout and keeps the canonical form. -/
theorem stepKeepsTheInvariant : Obligations.StepKeepsTheInvariant := by
  unfold Obligations.StepKeepsTheInvariant
  exact fun s t hs h => step_keeps_inv hs h

/-- Settles O60: the invariant is O25's, and the inert parts are kept one by one. -/
theorem stepKeepsTheInertStateAndTheInvariant :
    Obligations.StepKeepsTheInertStateAndTheInvariant := by
  unfold Obligations.StepKeepsTheInertStateAndTheInvariant
  intro s t hs hflags h
  obtain ⟨halt, hidx⟩ := step_keeps_alt_idx h
  exact ⟨step_keeps_inv hs h, step_keeps_flagByte_zero hflags h, halt, hidx, step_keeps_flagLayout h⟩

/-- Settles O17, from `exec`'s indifference to the status. -/
theorem stepRunsTheDecodedInstruction : Obligations.StepRunsTheDecodedInstruction := by
  unfold Obligations.StepRunsTheDecodedInstruction
  exact fun s i hs hf => step_eq_exec hs hf

/-- Settles O18: the two ways a decode fails, each with its record. -/
theorem unknownOpcodeIsRecordedAndNothingElseChanges :
    Obligations.UnknownOpcodeIsRecordedAndNothingElseChanges := by
  unfold Obligations.UnknownOpcodeIsRecordedAndNothingElseChanges
  intro s hs
  refine ⟨fun hop hu => ?_, fun hop hb => ?_⟩
  · exact step_of_unknown hs (decodeBytes_eq_error.2 (.inl ⟨hop, hu, rfl⟩))
  · exact step_of_unknown hs (decodeBytes_eq_error.2 (.inr ⟨hop, hb, rfl⟩))

/-- Settles O19: in Fetching no meaning stops, and a next state is answered nowhere else. -/
theorem stepAnswersNextExactlyInFetching : Obligations.StepAnswersNextExactlyInFetching := by
  unfold Obligations.StepAnswersNextExactlyInFetching
  exact fun s => ⟨fun ⟨_, h⟩ => (step_cases h).1, step_answers_next⟩

/-- Settles O22: the bytes at `pc` settle what is fetched, and what is fetched the status. -/
theorem stepMovesTheStatusAsListed : Obligations.StepMovesTheStatusAsListed := by
  unfold Obligations.StepMovesTheStatusAsListed
  intro s t h
  refine ⟨(step_cases h).1, ?_⟩
  split_ifs with hhalt hED hB0 hu
  · exact (step_status_eq_halted h).2 (State.fetchInstr_eq_halt.2 hhalt)
  · exact step_status_of_ne_halt (by simp) (State.fetchInstr_eq_ldir hED hB0) h
  · exact step_status_of_unknown (decodeBytes_eq_error.2 (.inr ⟨hED, hB0, rfl⟩)) h
  · exact step_status_of_unknown (decodeBytes_eq_error.2 (.inl ⟨hED, hu, rfl⟩)) h
  · obtain ⟨i, hf⟩ := decodeBytes_ok_of_recognized hED (Bool.eq_false_of_not_eq_true hu)
      (s.memRead (s.pc + 1)) (s.memRead (s.pc + 2))
    have hi : i ≠ .halt := by
      rintro rfl
      exact hhalt (State.fetchInstr_eq_halt.1 hf)
    exact step_status_of_ne_halt hi hf h

/-- Settles O26: no pair holds the alternate set or IDX, so every step commutes with a write of them. -/
theorem alternateSetAndIdxAreInert : Obligations.AlternateSetAndIdxAreInert := by
  unfold Obligations.AlternateSetAndIdxAreInert
  refine fun s alt idx => ⟨fun t h => step_keeps_alt_idx h, ?_⟩
  show step (s.setInert alt idx) = _
  obtain ⟨r, hstep, hset⟩ | ⟨t, hstep, hset⟩ := step_setInert s alt idx
  · rw [hset, hstep]
  · rw [hset, hstep]
    rfl

/-- Settles O28: of the six classes of instructions five store nothing, and a rejection stores nothing. -/
theorem onlyTheBlockCopyWritesMemory : Obligations.OnlyTheBlockCopyWritesMemory := by
  unfold Obligations.OnlyTheBlockCopyWritesMemory
  intro s t hs h
  have hmem := step_keeps_mem hs h
  exact ⟨hmem, fun a => congrArg (·.read a) hmem⟩

end Sys2Proof.Machine
end

section
/-! SUPPORT. The run (40_sequencer.md section 4, 70_reset_and_hazards.md R128): the loop's equations, what
holds of the state it ends in, and how that settles what it returns. -/

namespace Sys2Proof.Machine

variable {s t : State} {n : Nat}

/-! ### The loop and `run`, case by case -/

/-- R128: outside Fetching the run is over. -/
theorem runLoop_of_not_fetching (hs : s.status ≠ .fetching) (n : Nat) :
    runLoop n s = (s.runReturn, s) := by
  cases n with
  | zero => exact if_neg hs
  | succ n => exact if_neg hs

theorem runLoop_zero_of_fetching (hs : s.status = .fetching) :
    runLoop 0 s = (.budgetExhausted, s) := if_pos hs

/-- R128: in Fetching the loop makes a step. -/
theorem runLoop_succ_of_step (h : step s = .next t) : runLoop (n + 1) s = runLoop n t := by
  rw [runLoop, if_pos (step_cases h).1, h]

theorem runReturn_of_halted (hs : s.status = .halted) : s.runReturn = .ok := by
  unfold State.runReturn
  rw [hs]

theorem runReturn_of_faulted {r : FaultRecord} (hs : s.status = .faulted)
    (hr : s.faultRecord = some r) : s.runReturn = .unknownOpcode r.opcode r.addr := by
  unfold State.runReturn
  rw [hs, hr]

/-- R128: `run` from Idle or Halted. -/
theorem hostRun_of_idle_or_halted (hs : s.status = .idle ∨ s.status = .halted) (n : Nat)
    (start : Word) : hostRun n start s = runLoop n (s.startRun start) := by
  unfold hostRun
  rcases hs with hs | hs <;> rw [hs]

/-- R118, R129: `run` in the other statuses. -/
theorem hostRun_of_not_idle_or_halted (hs : ¬(s.status = .idle ∨ s.status = .halted)) (n : Nat)
    (start : Word) : hostRun n start s = (.refused, s) := by
  unfold hostRun
  cases hst : s.status with
  | idle => exact absurd (.inl hst) hs
  | halted => exact absurd (.inr hst) hs
  | fetching => rfl
  | dispatching => rfl
  | faulted => rfl

/-! ### Where the loop ends -/

/-- What every step keeps holds where the loop ends, if it holds where it begins. -/
theorem runLoop_induction {P : State → Prop} (hstep : ∀ s t, P s → step s = .next t → P t)
    (hs : P s) (n : Nat) : P (runLoop n s).2 := by
  induction n generalizing s with
  | zero => unfold runLoop; split <;> exact hs
  | succ n ih =>
    by_cases hst : s.status = .fetching
    · obtain ⟨t, ht⟩ := step_answers_next hst
      rw [runLoop_succ_of_step ht]
      exact ih (hstep s t hs ht)
    · rw [runLoop_of_not_fetching hst]
      exact hs

/-- R67, R128: the loop ends in Fetching with its budget, or with what its last state says. -/
theorem runLoop_fst (n : Nat) (s : State) :
    (runLoop n s).1 = .budgetExhausted ∧ (runLoop n s).2.status = .fetching ∨
      (runLoop n s).1 = (runLoop n s).2.runReturn ∧ (runLoop n s).2.status ≠ .fetching := by
  induction n generalizing s with
  | zero =>
    by_cases hst : s.status = .fetching
    · rw [runLoop_zero_of_fetching hst]
      exact .inl ⟨rfl, hst⟩
    · rw [runLoop_of_not_fetching hst]
      exact .inr ⟨rfl, hst⟩
  | succ n ih =>
    by_cases hst : s.status = .fetching
    · obtain ⟨t, ht⟩ := step_answers_next hst
      rw [runLoop_succ_of_step ht]
      exact ih t
    · rw [runLoop_of_not_fetching hst]
      exact .inr ⟨rfl, hst⟩

/-- R67: a larger budget changes nothing of a run that has ended. -/
theorem runLoop_add (k : Nat) (h : (runLoop n s).1 ≠ .budgetExhausted) :
    runLoop (n + k) s = runLoop n s := by
  induction n generalizing s with
  | zero =>
    have hst : s.status ≠ .fetching := fun hst => h (by rw [runLoop_zero_of_fetching hst])
    rw [runLoop_of_not_fetching hst, runLoop_of_not_fetching hst]
  | succ n ih =>
    by_cases hst : s.status = .fetching
    · obtain ⟨t, ht⟩ := step_answers_next hst
      rw [runLoop_succ_of_step ht] at h ⊢
      rw [Nat.add_right_comm, runLoop_succ_of_step ht, ih h]
    · rw [runLoop_of_not_fetching hst, runLoop_of_not_fetching hst]

/-! ### The states of a run -/

/-- R110, R116: the engine is Faulted with `b` at `a` on record, and memory still holds there the byte of
the instruction at `pc` that was not recognized. -/
structure State.FaultedOn (s : State) (b : Byte) (a : Word) : Prop where
  status : s.status = .faulted
  record : s.faultRecord = some { kind := .unknownOpcode, opcode := b, addr := a }
  byte : s.memRead a = b
  place : (a = s.pc ∧ b ≠ 0xED ∧ unrecognizedFirstByte b = true) ∨
    (a = s.pc + 1 ∧ s.memRead s.pc = 0xED ∧ b ≠ 0xB0)

/-- R53, R110: where a decode fails, the rejection records the byte that was not recognized. -/
theorem State.rejectOpcode_faultedOn {u : UnknownOpcode} (hf : s.fetchInstr = .error u) :
    ∃ b a, (s.rejectOpcode u).FaultedOn b a := by
  obtain ⟨hop, hlisted, rfl⟩ | ⟨hED, hB0, rfl⟩ := decodeBytes_eq_error.1 hf
  · exact ⟨_, _, rfl, rfl, rfl, .inl ⟨rfl, hop, hlisted⟩⟩
  · exact ⟨_, _, rfl, rfl, rfl, .inr ⟨rfl, hED, hB0⟩⟩

/-- R60: what a state of a run is, from its start on: Fetching, or ended on what still stands at `pc`. -/
inductive RunState (s : State) : Prop where
  | fetching : s.status = .fetching → RunState s
  | halted : s.status = .halted → s.memRead s.pc = 0x76 → RunState s
  | faulted (b : Byte) (a : Word) : s.FaultedOn b a → RunState s

theorem RunState.of_step (h : step s = .next t) : RunState t := by
  obtain ⟨u, hf, rfl⟩ | ⟨i, hf, he⟩ := step_cases_exec h
  · obtain ⟨b, a, hfaulted⟩ := State.rejectOpcode_faultedOn hf
    exact .faulted b a hfaulted
  · by_cases hi : i = .halt
    · subst hi
      obtain rfl := Host.Outcome.next.inj he
      exact .halted rfl (State.fetchInstr_eq_halt.1 hf)
    · exact .fetching ((exec_keeps_status hi he).trans (step_cases h).1)

theorem RunState.of_runLoop (n : Nat) (hs : RunState s) : RunState (runLoop n s).2 :=
  runLoop_induction (fun _ _ _ => RunState.of_step) hs n

/-- R69, R110, R124: the four ways a run ends. -/
theorem hostRun_cases {start : Word} {r : RunReturn} (h : hostRun n start s = (r, t)) :
    r = .refused ∨ r = .budgetExhausted ∨
      (r = .ok ∧ t.status = .halted ∧ t.memRead t.pc = 0x76) ∨
      ∃ b a, r = .unknownOpcode b a ∧ t.FaultedOn b a := by
  by_cases hs : s.status = .idle ∨ s.status = .halted
  · rw [hostRun_of_idle_or_halted hs] at h
    have hrun : RunState (runLoop n (s.startRun start)).2 := .of_runLoop n (.fetching rfl)
    have hend := runLoop_fst n (s.startRun start)
    rw [h] at hrun hend
    obtain ⟨hr, -⟩ | ⟨hr, hst⟩ := hend
    · exact .inr (.inl hr)
    · cases hrun with
      | fetching hfetching => exact absurd hfetching hst
      | halted hhalted hbyte =>
        exact .inr (.inr (.inl ⟨hr.trans (runReturn_of_halted hhalted), hhalted, hbyte⟩))
      | faulted b a hf =>
        exact .inr (.inr (.inr ⟨b, a, hr.trans (runReturn_of_faulted hf.status hf.record), hf⟩))
  · rw [hostRun_of_not_idle_or_halted hs] at h
    exact .inl (congrArg Prod.fst h).symm

end Sys2Proof.Machine
end

section
/-! SUPPORT. The statements on the run, settled (40_sequencer.md section 4; 60_exceptions.md sections 1 and 7;
70_reset_and_hazards.md R128). -/

namespace Sys2Proof.Machine

/-- Settles O54: the state a run ends in still holds at `pc` the bytes that ended it. -/
theorem runEndsAsItReports : Obligations.RunEndsAsItReports := by
  unfold Obligations.RunEndsAsItReports
  intro n start s t
  refine ⟨fun h => ?_, fun b a h => ?_⟩
  · obtain hr | hr | ⟨-, hhalted, hbyte⟩ | ⟨b, a, hr, -⟩ := hostRun_cases h
    · exact absurd hr (by simp)
    · exact absurd hr (by simp)
    · exact ⟨hhalted, hbyte⟩
    · exact absurd hr (by simp)
  · obtain hr | hr | ⟨hr, -⟩ | ⟨b', a', hr, hf⟩ := hostRun_cases h
    · exact absurd hr (by simp)
    · exact absurd hr (by simp)
    · exact absurd hr (by simp)
    · obtain ⟨rfl, rfl⟩ := RunReturn.unknownOpcode.inj hr
      exact ⟨hf.status, hf.record, hf.byte, hf.place⟩

/-- Settles O55: none of the four ways a run ends returns `stopped`. -/
theorem runNeverStopsWithoutAReason : Obligations.RunNeverStopsWithoutAReason := by
  unfold Obligations.RunNeverStopsWithoutAReason
  intro n start s hstopped
  have hrun : hostRun n start s = (.stopped, (hostRun n start s).2) := by rw [← hstopped]
  obtain hr | hr | ⟨hr, -⟩ | ⟨b, a, hr, -⟩ := hostRun_cases hrun
  · exact absurd hr (by simp)
  · exact absurd hr (by simp)
  · exact absurd hr (by simp)
  · exact absurd hr (by simp)

/-- Settles O56: a run that ended before its budget makes the same steps with a larger one. -/
theorem budgetDoesNotChangeAFinishedRun : Obligations.BudgetDoesNotChangeAFinishedRun := by
  unfold Obligations.BudgetDoesNotChangeAFinishedRun
  intro n k start s h
  by_cases hs : s.status = .idle ∨ s.status = .halted
  · rw [hostRun_of_idle_or_halted hs] at h ⊢
    rw [runLoop_add k h, hostRun_of_idle_or_halted hs]
  · rw [hostRun_of_not_idle_or_halted hs, hostRun_of_not_idle_or_halted hs]

/-- Settles O53, by the equations of `run` and of its loop. -/
theorem runSetsPcAndStatusAndRepeatsTheStep : Obligations.RunSetsPcAndStatusAndRepeatsTheStep := by
  unfold Obligations.RunSetsPcAndStatusAndRepeatsTheStep
  intro s start n
  refine ⟨fun hs t h => ?_, fun _ t h => runLoop_succ_of_step h, fun hs => ?_, fun hs r hr => ?_,
    fun hs => hostRun_of_not_idle_or_halted ?_ n start⟩
  · rw [hostRun_of_idle_or_halted hs, runLoop_succ_of_step (s := s.startRun start) h]
  · rw [runLoop_of_not_fetching (by simp [hs]), runReturn_of_halted hs]
  · rw [runLoop_of_not_fetching (by simp [hs]), runReturn_of_faulted hs hr]
  · rcases hs with hs | hs | hs <;> simp [hs]

end Sys2Proof.Machine
end

section
/-! SUPPORT. The layout of the flags (00_scope.md R5, D3, log entry 27): only a write of a flag reads it, and
only LDIR writes a flag. -/

namespace Sys2Proof.Machine

variable {s t : State} {i : Instr}

/-- The state of an engine with another layout of the flags. -/
def State.withFlagLayout (s : State) (l : FlagLayout) : State := { s with flagLayout := l }

theorem State.rejectOpcode_withFlagLayout (s : State) (u : UnknownOpcode) (l : FlagLayout) :
    (s.withFlagLayout l).rejectOpcode u = (s.rejectOpcode u).withFlagLayout l := by cases u <;> rfl

theorem State.writeDest16_withFlagLayout (s : State) (d : Dest16) (v : Word) (l : FlagLayout) :
    (s.withFlagLayout l).writeDest16 d v = (s.writeDest16 d v).withFlagLayout l := by cases d <;> rfl

/-- An instruction but LDIR does the same with every layout. -/
theorem exec_withFlagLayout (hi : i ≠ .ldir) (h : exec i s = .next t) (l : FlagLayout) :
    exec i (s.withFlagLayout l) = .next (t.withFlagLayout l) := by
  obtain ⟨d, nn, rfl, rfl⟩ | ⟨r, n, rfl, rfl⟩ | ⟨r, r', rfl, rfl⟩ | ⟨r, rfl, rfl⟩ | ⟨rfl, -⟩ |
    ⟨rfl, rfl⟩ := exec_cases h
  · rw [exec_load16, State.writeDest16_withFlagLayout]
    rfl
  · exact exec_load8 r n _
  · exact exec_transfer r r' _
  · exact exec_loadAtHL r _
  · exact absurd rfl hi
  · exact exec_halt _

/-- A step that is not LDIR's does the same with every layout. -/
theorem step_withFlagLayout (hs : s.fetchInstr ≠ .ok .ldir) (l : FlagLayout) :
    (∃ r, step s = .fault r ∧ step (s.withFlagLayout l) = .fault r) ∨
      ∃ t, step s = .next t ∧ step (s.withFlagLayout l) = .next (t.withFlagLayout l) := by
  by_cases hst : s.status = .fetching
  · have hst' : (s.withFlagLayout l).status = .fetching := hst
    right
    cases hf : s.fetchInstr with
    | error u =>
      have hf' : (s.withFlagLayout l).fetchInstr = .error u := hf
      exact ⟨_, step_of_unknown hst hf, by
        rw [step_of_unknown hst' hf', State.rejectOpcode_withFlagLayout]⟩
    | ok i =>
      have hf' : (s.withFlagLayout l).fetchInstr = .ok i := hf
      obtain ⟨t, ht⟩ := exec_answers_next i s
      have hi : i ≠ .ldir := fun hi => hs (hi ▸ hf)
      exact ⟨t, (step_eq_exec hst hf).trans ht,
        (step_eq_exec hst' hf').trans (exec_withFlagLayout hi ht l)⟩
  · obtain ⟨r, hr⟩ := step_fault_of_not_fetching hst
    exact .inl ⟨r, hr s rfl, hr (s.withFlagLayout l) rfl⟩

end Sys2Proof.Machine
end

section
/-! SUPPORT. A load's bytes in memory (70_reset_and_hazards.md R127): byte `i` goes to the address `i` past the
first, and no address is written twice. -/

namespace Sys2Proof.Machine

variable {m : Memory}

/-- R31: the address of a byte of the tail, counted from the first address and from the one after it. -/
theorem add_one_add_ofNat (a : Word) (i : Nat) :
    a + 1 + BitVec.ofNat 16 i = a + BitVec.ofNat 16 (i + 1) := by
  bv_omega

theorem Memory.read_writeBytes_outside (hm : m.wf = true) {a address : Word} {bytes : List Byte}
    (ha : ∀ i, i < bytes.length → a ≠ address + BitVec.ofNat 16 i) :
    (m.writeBytes address bytes).read a = m.read a := by
  induction bytes generalizing m address with
  | nil => rfl
  | cons v vs ih =>
    have hfirst : a ≠ address := by simpa using ha 0 (by simp)
    have hrest : ∀ i, i < vs.length → a ≠ address + 1 + BitVec.ofNat 16 i := fun i hi => by
      rw [add_one_add_ofNat]
      exact ha (i + 1) (Nat.succ_lt_succ hi)
    exact (ih (Memory.wf_write hm address v) hrest).trans (Memory.read_write_other hm v hfirst)

theorem Memory.read_writeBytes (hm : m.wf = true) {address : Word} {bytes : List Byte}
    (hlen : bytes.length ≤ Config.memSize) {i : Nat} (hi : i < bytes.length) :
    (m.writeBytes address bytes).read (address + BitVec.ofNat 16 i) = bytes[i] := by
  induction bytes generalizing m address i with
  | nil => exact absurd hi (Nat.not_lt_zero i)
  | cons v vs ih =>
    have hwf := Memory.wf_write hm address v
    cases i with
    | zero =>
      have hother : ∀ j, j < vs.length →
          address + BitVec.ofNat 16 0 ≠ address + 1 + BitVec.ofNat 16 j := fun j hj => by
        rw [add_one_add_ofNat]
        exact add_ofNat_ne_of_lt address j.succ_pos (Nat.lt_of_lt_of_le (Nat.succ_lt_succ hj) hlen)
      refine (Memory.read_writeBytes_outside hwf hother).trans ?_
      rw [show address + BitVec.ofNat 16 0 = address from address.add_zero]
      exact Memory.read_write_same hm address v
    | succ j =>
      rw [← add_one_add_ofNat]
      exact ih hwf (Nat.le_of_succ_le hlen) (Nat.lt_of_succ_lt_succ hi)

/-- R127: an address below the range of a load, or past it, is the address of none of its bytes. -/
theorem ne_add_ofNat_of_outside {a address : Word} {n : Nat} (hle : address.toNat + n ≤ Config.memSize)
    (ha : a.toNat < address.toNat ∨ address.toNat + n ≤ a.toNat) {i : Nat} (hi : i < n) :
    a ≠ address + BitVec.ofNat 16 i := by
  unfold Config.memSize at hle
  bv_omega

/-- R111, R127: whatever a load answers, it changes memory at most. -/
theorem hostLoad_eq (address : Word) (bytes : List Byte) (s : State) :
    ∃ m, (hostLoad address bytes s).2 = { s with mem := m } ∧ (s.mem.wf = true → m.wf = true) := by
  unfold hostLoad
  split_ifs
  · exact ⟨s.mem, rfl, id⟩
  · exact ⟨_, rfl, fun hs => Memory.wf_writeBytes hs address bytes⟩
  · exact ⟨s.mem, rfl, id⟩

end Sys2Proof.Machine
end

section
/-! SUPPORT. The states of an engine (70_reset_and_hazards.md R126 to R129): what reset, a load and the start of
a run keep of what a step keeps. -/

namespace Sys2Proof.Machine

variable {s : State}

/-- R28, R29: the engine just created meets the invariant, whatever its memory holds. -/
theorem inv_resetWith (memReset : Word → Byte) {l : FlagLayout} (hl : l.wf = true) :
    (State.resetWith memReset l).Inv where
  memory := Memory.wf_ofContent memReset
  recordInFaulted := rfl
  recordKind := nofun
  betweenSteps := nofun
  distinctFlags := hl

/-- Another memory in canonical form does not touch the invariant. -/
theorem State.Inv.withMem (hs : s.Inv) {m : Memory} (hm : m.wf = true) :
    State.Inv { s with mem := m } :=
  { hs with memory := hm }

/-- R128: before and after the start of a run there is no record. -/
theorem State.Inv.startRun (hs : s.Inv) (hst : s.status = .idle ∨ s.status = .halted)
    (start : Word) : (s.startRun start).Inv := by
  have hrecord : s.faultRecord = none :=
    hs.faultRecord_eq_none (by rcases hst with hst | hst <;> simp [hst])
  exact
    { memory := hs.memory
      recordInFaulted := by simp [hrecord]
      recordKind := hs.recordKind
      betweenSteps := by simp
      distinctFlags := hs.distinctFlags }

/-- R18, R21, R28: the invariant, and the zeros of reset that nothing changes. -/
structure InertInv (s : State) : Prop where
  inv : s.Inv
  alt : s.alt = RegisterSet.reset
  idx : s.main.idx = 0
  flags : s.flagByte = 0

theorem inertInv_of_engineState (hs : EngineState s) : InertInv s := by
  induction hs with
  | reset memReset l hl => exact ⟨inv_resetWith memReset hl, rfl, rfl, rfl⟩
  | load address bytes _ hload ih =>
    obtain ⟨m, heq, hm⟩ := hostLoad_eq address bytes _
    rw [hload] at heq
    subst heq
    exact ⟨ih.inv.withMem (hm ih.inv.memory), ih.alt, ih.idx, ih.flags⟩
  | start address _ hst ih => exact ⟨ih.inv.startRun hst address, ih.alt, ih.idx, ih.flags⟩
  | step _ hstep ih =>
    obtain ⟨halt, hidx⟩ := step_keeps_alt_idx hstep
    exact ⟨step_keeps_inv ih.inv hstep, halt.trans ih.alt, hidx.trans ih.idx,
      step_keeps_flagByte_zero ih.flags hstep⟩

end Sys2Proof.Machine
end

section
/-! SUPPORT. The statements on memory, on the reset state and on the flags' places, settled (10_state.md
sections 5, 7 and 10; 20_memory.md R32, R35; 70_reset_and_hazards.md R126). -/

namespace Sys2Proof.Machine

/-- Settles O8, from the laws of one write. -/
theorem readAfterWriteAtEveryAddress : Obligations.ReadAfterWriteAtEveryAddress := by
  unfold Obligations.ReadAfterWriteAtEveryAddress
  exact fun s a v hs => ⟨Memory.read_write_same hs a v,
    fun _ ha => Memory.read_write_other hs v ha, rfl, Memory.wf_write hs a v⟩

/-- Settles O9: the form is settled by the bytes at all keys, and a key that is no address reads alike in
both. -/
theorem canonicalMemoriesReadingAlikeAreEqual :
    Obligations.CanonicalMemoriesReadingAlikeAreEqual := by
  unfold Obligations.CanonicalMemoriesReadingAlikeAreEqual
  intro m m' hm hm' hread
  refine Memory.ext_lookup hm hm' fun k => ?_
  by_cases hk : k < Config.memSize
  · have hkey : (BitVec.ofNat 16 k).toNat = k := Nat.mod_eq_of_lt hk
    have hat := hread (BitVec.ofNat 16 k)
    unfold Memory.read at hat
    rwa [hkey] at hat
  · rw [Memory.lookup_above hm (Nat.le_of_not_lt hk), Memory.lookup_above hm' (Nat.le_of_not_lt hk)]

/-- Settles O1: every register of the reset state is the literal zero. -/
theorem resetRegistersAreZero : Obligations.ResetRegistersAreZero := by
  unfold Obligations.ResetRegistersAreZero
  refine ⟨fun p => by cases p <;> rfl, fun x => by cases x <;> rfl, fun x => ?_, rfl, rfl, rfl, rfl,
    rfl, rfl⟩
  have hflags : State.reset.flagByte = 0 := rfl
  simp [State.getFlag, hflags]

/-- Settles O2, from the laws of a memory of given content. -/
theorem resetMemoryIsMemReset : Obligations.ResetMemoryIsMemReset := by
  unfold Obligations.ResetMemoryIsMemReset
  exact fun memReset l => ⟨Memory.read_ofContent memReset, Memory.wf_ofContent memReset, rfl, rfl⟩

/-- Settles O24: an empty memory is in canonical form, as is one of given content. -/
theorem resetMeetsTheInvariant : Obligations.ResetMeetsTheInvariant := by
  unfold Obligations.ResetMeetsTheInvariant
  exact ⟨⟨Memory.wf_nil, rfl, nofun, nofun, rfl⟩, fun memReset l hl => inv_resetWith memReset hl⟩

/-- Settles O7: the general clauses are `FlagLayout.pos_injective` and `FlagLayout.pos_lt`, the rest is the
default layout's table. -/
theorem flagPositionsAreDistinct : Obligations.FlagPositionsAreDistinct := by
  unfold Obligations.FlagPositionsAreDistinct
  exact ⟨rfl, rfl, rfl, fun l hl x y h => FlagLayout.pos_injective hl h, FlagLayout.pos_lt⟩

end Sys2Proof.Machine
end

section
/-! SUPPORT. The statements on the host's operations, on the states of an engine and on the flags' layout,
settled (70_reset_and_hazards.md R126 to R130; 60_exceptions.md section 7; 00_scope.md R5). -/

namespace Sys2Proof.Machine

/-- Settles O52: each byte of the load goes to an address of its own, and none outside the range. -/
theorem loadCopiesItsBytesAndNothingElse : Obligations.LoadCopiesItsBytesAndNothingElse := by
  unfold Obligations.LoadCopiesItsBytesAndNothingElse
  intro s address bytes hmay hs hle
  have hlen : bytes.length ≤ Config.memSize := Nat.le_trans (Nat.le_add_left _ _) hle
  exact ⟨_, hostLoad_of_le_memSize hmay hle, fun i hi => Memory.read_writeBytes hs hlen hi,
    fun a ha => Memory.read_writeBytes_outside hs fun i hi => ne_add_ofNat_of_outside hle ha hi,
    rfl, Memory.wf_writeBytes hs address bytes⟩

/-- Settles O57, status by status. -/
theorem inspectionIsAvailableBetweenRuns : Obligations.InspectionIsAvailableBetweenRuns := by
  unfold Obligations.InspectionIsAvailableBetweenRuns
  intro s
  refine ⟨?_, fun v hv => ?_⟩
  · unfold hostInspect
    cases s.status <;> simp [Status.hostMayAct]
  · unfold hostInspect at hv
    split at hv
    · obtain rfl := Option.some.inj hv
      exact ⟨rfl, rfl, rfl, rfl, rfl, fun hst => if_pos hst, fun hst => if_neg hst⟩
    · exact absurd hv (by simp)

/-- Settles O58, by induction over what an engine can do. -/
theorem everyEngineStateKeepsItsInertState : Obligations.EveryEngineStateKeepsItsInertState := by
  unfold Obligations.EveryEngineStateKeepsItsInertState
  intro s hs
  obtain ⟨hinv, halt, hidx, hflags⟩ := inertInv_of_engineState hs
  exact ⟨hinv, halt, hidx, hflags⟩

/-- Settles O59: a run keeps the layout because each of its steps does. -/
theorem flagLayoutIsAParameterThatOnlyTheBlockCopyReads :
    Obligations.FlagLayoutIsAParameterThatOnlyTheBlockCopyReads := by
  unfold Obligations.FlagLayoutIsAParameterThatOnlyTheBlockCopyReads
  intro s l
  refine ⟨fun t h => step_keeps_flagLayout h, fun address bytes => ?_, fun n start => ?_,
    fun hs => ?_⟩
  · obtain ⟨m, heq, -⟩ := hostLoad_eq address bytes s
    rw [heq]
  · by_cases hst : s.status = .idle ∨ s.status = .halted
    · rw [hostRun_of_idle_or_halted hst]
      exact runLoop_induction (P := fun u => u.flagLayout = s.flagLayout) (s := s.startRun start)
        (fun u t hu h => (step_keeps_flagLayout h).trans hu) rfl n
    · rw [hostRun_of_not_idle_or_halted hst]
  · show step (s.withFlagLayout l) = _
    obtain ⟨r, hstep, hlayout⟩ | ⟨t, hstep, hlayout⟩ := step_withFlagLayout hs l
    · rw [hlayout, hstep]
    · rw [hlayout, hstep]
      rfl

end Sys2Proof.Machine
end
